-- ==== Sys2Proof/Word.lean ====
section
/-!
DEFINITION. The units of storage of the CORE: the 16-bit word (R5, R7, R30), the byte of a program image file (R31), the 24-bit value a
register pair forms (R73), and the 3-bit index of a general register (R10, R51).
-/
namespace Sys2Proof

/-- The native 16-bit unit of storage and computation; a word address is one too (R7, R30). -/
abbrev Word := BitVec 16

/-- One byte of a program image file; the CORE itself has no byte (R31). -/
abbrev Byte := BitVec 8

/-- What two register halves form: 0 to 0xFFFFFF, so 24 bits hold it exactly (R73). -/
abbrev PairValue := BitVec 24

/-- A general register's index, a 3-bit field of the instruction: every value names a register (R10, R51). -/
abbrev Reg := BitVec 3

/-- The five opcode bits of an instruction word (R50). -/
abbrev Opcode := BitVec 5

end Sys2Proof
end

