-- ==== Sys2Proof/Config.lean ====
section
/-!
DEFINITION. The types of the five parameters the spec leaves open (R6), and the record of the three that the step relation and the
host's start take. Their default values stand where a repair can reach them: `defaultOpcodeMap` in Decode.lean, the others in
Machine/Defaults.lean and Machine/Display.lean. The CORE leaves no other value open, so there is no opaque constant here.
-/
namespace Sys2Proof

/-- `OPCODE_MAP` (R6, R54): the opcode of each of the 22 mnemonics, in the order the source lists them (HLT, IMOV, MOV, LOAD, STORE,
ADD, SUB, MUL, DIV, AND, OR, XOR, NOT, JMP, JZ, JNZ, PUSH, POP, CMP, CALL, RET, NOP). It must be injective: `OpcodeMap.wellFormed`. -/
abbrev OpcodeMap := Vector Opcode 22

/-- `POP_ORDER` (R6, R122). -/
inductive PopOrder where
  /-- Read at SP, then move SP up: the source's opcode table, the default. -/
  | readThenIncrement
  /-- Move SP up, then read at the new SP: what the source's round-trip property needs. -/
  | incrementThenRead
deriving DecidableEq, Repr

/-- `RESTART_MODE` (R6, R74). -/
inductive RestartMode where
  /-- The host starts a pass once per frame: the original's behaviour, the default. -/
  | replayFromZero
  /-- The host starts a pass once after reset and never again. -/
  | singlePass
deriving DecidableEq, Repr

/-- `GPR_RESET` (R6, R11): the values the eight general registers hold after reset, which the spec leaves unspecified. -/
abbrev GprReset := Vector Word 8

/-- The three channels of a pixel word, 5/6/5 bits (R144). -/
structure Rgb where
  red   : BitVec 5
  green : BitVec 6
  blue  : BitVec 5
deriving DecidableEq, Repr

/-- `PIXEL_UNPACK` (R6, R144): a function, so it is an argument of the render pass and never a field of the state. -/
abbrev PixelUnpack := Word → Rgb

/-- The open parameters that the step (`opcodeMap`, `popOrder`) and the host's start of a pass (`restartMode`) take as arguments.
DESIGN CHOICE (log 3, 5, 6): they stand in the state as plain data that nothing changes, so that a claim over all states is a claim
for every value of them. -/
structure Params where
  opcodeMap   : OpcodeMap
  popOrder    : PopOrder
  restartMode : RestartMode
deriving DecidableEq, Repr

end Sys2Proof
end

