-- ==== Sys2Proof/Syntax.lean ====
section
/-!
DEFINITION. The instructions: one constructor per row of spec/opcode_table.json, its arguments the fields the row's format uses, in
field order (R52, R54, R60). Bits a format ignores have no place here (R55), but for the unassigned opcodes, whose diagnostic reports the
whole word (R135).
-/
namespace Sys2Proof

/-- The 22 mnemonics of R54 and the ten opcodes assigned to no mnemonic (R56). -/
inductive Instr where
  /-- HLT, halt (R130). -/
  | hlt
  /-- IMOV rA, imm (R80). -/
  | imov (r1 : Reg) (imm8 : BitVec 8)
  /-- MOV rA, rB (R81). -/
  | mov (r1 r2 : Reg)
  /-- LOAD rA, rB, rC: the address pair is (rB high, rC low) (R82). -/
  | load (r1 r2 r3 : Reg)
  /-- STORE rA, rB, rC: the address pair is (rA high, rB low), rC the data (R83). -/
  | store (r1 r2 r3 : Reg)
  /-- ADD rA, rB (R91). -/
  | add (r1 r2 : Reg)
  /-- SUB rA, rB (R92). -/
  | sub (r1 r2 : Reg)
  /-- MUL rA, rB (R93). -/
  | mul (r1 r2 : Reg)
  /-- DIV rA, rB (R94). -/
  | div (r1 r2 : Reg)
  /-- AND rA, rB (R101). -/
  | and (r1 r2 : Reg)
  /-- OR rA, rB (R102). -/
  | or (r1 r2 : Reg)
  /-- XOR rA, rB (R103). -/
  | xor (r1 r2 : Reg)
  /-- NOT rA, rB (R104). -/
  | not (r1 r2 : Reg)
  /-- JMP rA, rB: the target pair is (rA high, rB low) (R111). -/
  | jmp (r1 r2 : Reg)
  /-- JZ rA, rB (R112). -/
  | jz (r1 r2 : Reg)
  /-- JNZ rA, rB (R113). -/
  | jnz (r1 r2 : Reg)
  /-- PUSH rA (R121). -/
  | push (r1 : Reg)
  /-- POP rA (R122). -/
  | pop (r1 : Reg)
  /-- CMP rA, rB (R114). -/
  | cmp (r1 r2 : Reg)
  /-- CALL, reserved (R132). -/
  | call
  /-- RET, reserved (R133). -/
  | ret
  /-- NOP (R131). -/
  | nop
  /-- The lowest opcode the map leaves unassigned (22 under the default map), with the whole word `w` (R135; log 4). -/
  | unassigned22 (w : Word)
  /-- The second lowest unassigned opcode (R135). -/
  | unassigned23 (w : Word)
  /-- The third lowest unassigned opcode (R135). -/
  | unassigned24 (w : Word)
  /-- The fourth lowest unassigned opcode (R135). -/
  | unassigned25 (w : Word)
  /-- The fifth lowest unassigned opcode (R135). -/
  | unassigned26 (w : Word)
  /-- The sixth lowest unassigned opcode (R135). -/
  | unassigned27 (w : Word)
  /-- The seventh lowest unassigned opcode (R135). -/
  | unassigned28 (w : Word)
  /-- The eighth lowest unassigned opcode (R135). -/
  | unassigned29 (w : Word)
  /-- The ninth lowest unassigned opcode (R135). -/
  | unassigned30 (w : Word)
  /-- The highest unassigned opcode (R135). -/
  | unassigned31 (w : Word)
deriving DecidableEq, Repr

end Sys2Proof
end

