-- ==== Sys2Proof/Decode.lean ====
section
/-!
DEFINITION. The Decoder (R51), the opcode map (R54) and the encoder (R59). The Decoder is a pure, total function of the instruction word: it
refuses nothing, so nothing is rejected here (R51, R56). Decoder and encoder take `OPCODE_MAP` as an argument (R6); the default map is the
spec's decision D1.
-/
namespace Sys2Proof

/-- `opcode = w[15:11]` (R51). -/
def opcodeOf (w : Word) : Opcode := w.extractLsb' 11 5

/-- `r1 = w[10:8]` (R51). -/
def r1Of (w : Word) : Reg := w.extractLsb' 8 3

/-- `r2 = w[7:5]` (R51). -/
def r2Of (w : Word) : Reg := w.extractLsb' 5 3

/-- `r3 = w[4:2]` (R51). -/
def r3Of (w : Word) : Reg := w.extractLsb' 2 3

/-- `imm8 = w[7:0]` (R51, R53). -/
def imm8Of (w : Word) : BitVec 8 := w.extractLsb' 0 8

/-- The default `OPCODE_MAP` (R54, D1): the 22 mnemonics in the source's order, HLT = 0 up to NOP = 21. The source gives no opcode
numbers; these are the spec's decision (log 3). -/
def defaultOpcodeMap : OpcodeMap :=
  #v[0, 1, 2, 3, 4, 5, 6, 7, 8, 9, 10, 11, 12, 13, 14, 15, 16, 17, 18, 19, 20, 21]

/-- The 32 opcodes, ascending. -/
def allOpcodes : List Opcode := (List.range 32).map (BitVec.ofNat 5)

/-- The opcodes a map assigns to no mnemonic, ascending: ten of them if the map is injective (R56). -/
def unassignedOpcodes (m : OpcodeMap) : List Opcode := allOpcodes.filter (fun c => !m.toList.contains c)

/-- The opcodes in the order of the opcode table's rows: the 22 mnemonics', then the unassigned ones (log 4). -/
def rowOpcodes (m : OpcodeMap) : List Opcode := m.toList ++ unassignedOpcodes m

/-- `OPCODE_MAP^-1` of R70, as the number of the opcode table's row. -/
def rowOf (m : OpcodeMap) (c : Opcode) : Nat := (rowOpcodes m).idxOf c

/-- The opcode of a row of the opcode table. -/
def codeOf (m : OpcodeMap) (row : Nat) : Opcode := (rowOpcodes m).getD row 0

/-- The instruction of a row of the opcode table, with the operand fields its format uses (R52) read from the word. -/
def instrOfRow (row : Nat) (w : Word) : Instr :=
  match row with
  | 0 => .hlt
  | 1 => .imov (r1Of w) (imm8Of w)
  | 2 => .mov (r1Of w) (r2Of w)
  | 3 => .load (r1Of w) (r2Of w) (r3Of w)
  | 4 => .store (r1Of w) (r2Of w) (r3Of w)
  | 5 => .add (r1Of w) (r2Of w)
  | 6 => .sub (r1Of w) (r2Of w)
  | 7 => .mul (r1Of w) (r2Of w)
  | 8 => .div (r1Of w) (r2Of w)
  | 9 => .and (r1Of w) (r2Of w)
  | 10 => .or (r1Of w) (r2Of w)
  | 11 => .xor (r1Of w) (r2Of w)
  | 12 => .not (r1Of w) (r2Of w)
  | 13 => .jmp (r1Of w) (r2Of w)
  | 14 => .jz (r1Of w) (r2Of w)
  | 15 => .jnz (r1Of w) (r2Of w)
  | 16 => .push (r1Of w)
  | 17 => .pop (r1Of w)
  | 18 => .cmp (r1Of w) (r2Of w)
  | 19 => .call
  | 20 => .ret
  | 21 => .nop
  | 22 => .unassigned22 w
  | 23 => .unassigned23 w
  | 24 => .unassigned24 w
  | 25 => .unassigned25 w
  | 26 => .unassigned26 w
  | 27 => .unassigned27 w
  | 28 => .unassigned28 w
  | 29 => .unassigned29 w
  | 30 => .unassigned30 w
  | _ => .unassigned31 w

/-- The Decoder and the dispatch on the opcode alone (R51, R54, R70). -/
def decode (m : OpcodeMap) (w : Word) : Instr := instrOfRow (rowOf m (opcodeOf w)) w

/-- The instruction an opcode-table word decodes to under the default map. Every instruction is one 16-bit word (R58), so a row of more
than 16 bits is none of this hardware's; bits of `w` from `nbits` up are taken as 0. -/
def decodeTableWord (nbits w : Nat) : Option Instr :=
  if nbits ≤ 16 then some (decode defaultOpcodeMap (BitVec.ofNat 16 (w % 2 ^ nbits))) else none

/-! ## The encoder (R59): ignored bits are 0 -/

/-- Format N. -/
def formatN (c : Opcode) : Word := c ++ 0#11

/-- Format I. -/
def formatI (c : Opcode) (r1 : Reg) (imm8 : BitVec 8) : Word := c ++ r1 ++ imm8

/-- Format R1. -/
def formatR1 (c : Opcode) (r1 : Reg) : Word := c ++ r1 ++ 0#8

/-- Format R2. -/
def formatR2 (c : Opcode) (r1 r2 : Reg) : Word := c ++ r1 ++ r2 ++ 0#5

/-- Format R3. -/
def formatR3 (c : Opcode) (r1 r2 r3 : Reg) : Word := c ++ r1 ++ r2 ++ r3 ++ 0#2

/-- The row of the opcode table an instruction belongs to. -/
def rowOfInstr : Instr → Nat
  | .hlt => 0
  | .imov _ _ => 1
  | .mov _ _ => 2
  | .load _ _ _ => 3
  | .store _ _ _ => 4
  | .add _ _ => 5
  | .sub _ _ => 6
  | .mul _ _ => 7
  | .div _ _ => 8
  | .and _ _ => 9
  | .or _ _ => 10
  | .xor _ _ => 11
  | .not _ _ => 12
  | .jmp _ _ => 13
  | .jz _ _ => 14
  | .jnz _ _ => 15
  | .push _ => 16
  | .pop _ => 17
  | .cmp _ _ => 18
  | .call => 19
  | .ret => 20
  | .nop => 21
  | .unassigned22 _ => 22
  | .unassigned23 _ => 23
  | .unassigned24 _ => 24
  | .unassigned25 _ => 25
  | .unassigned26 _ => 26
  | .unassigned27 _ => 27
  | .unassigned28 _ => 28
  | .unassigned29 _ => 29
  | .unassigned30 _ => 30
  | .unassigned31 _ => 31

/-- The word of an instruction (R59): its row's opcode, its operands in their fields, ignored bits 0. An unassigned opcode's instruction
carries its word whole. -/
def encode (m : OpcodeMap) (i : Instr) : Word :=
  match i with
  | .hlt | .call | .ret | .nop => formatN (codeOf m (rowOfInstr i))
  | .imov r1 imm8 => formatI (codeOf m (rowOfInstr i)) r1 imm8
  | .push r1 | .pop r1 => formatR1 (codeOf m (rowOfInstr i)) r1
  | .mov r1 r2 | .add r1 r2 | .sub r1 r2 | .mul r1 r2 | .div r1 r2 | .and r1 r2 | .or r1 r2 | .xor r1 r2
  | .not r1 r2 | .jmp r1 r2 | .jz r1 r2 | .jnz r1 r2 | .cmp r1 r2 => formatR2 (codeOf m (rowOfInstr i)) r1 r2
  | .load r1 r2 r3 | .store r1 r2 r3 => formatR3 (codeOf m (rowOfInstr i)) r1 r2 r3
  | .unassigned22 w | .unassigned23 w | .unassigned24 w | .unassigned25 w | .unassigned26 w | .unassigned27 w
  | .unassigned28 w | .unassigned29 w | .unassigned30 w | .unassigned31 w => w

/-- The bits of its word an instruction's format uses, as a mask (R52): the others are ignored (R55). -/
def usedBits : Instr → Word
  | .imov _ _ => 0xFFFF
  | .push _ | .pop _ => 0xFF00
  | .mov _ _ | .add _ _ | .sub _ _ | .mul _ _ | .div _ _ | .and _ _ | .or _ _ | .xor _ _
  | .not _ _ | .jmp _ _ | .jz _ _ | .jnz _ _ | .cmp _ _ => 0xFFE0
  | .load _ _ _ | .store _ _ _ => 0xFFFC
  | .hlt | .call | .ret | .nop
  | .unassigned22 _ | .unassigned23 _ | .unassigned24 _ | .unassigned25 _ | .unassigned26 _ | .unassigned27 _
  | .unassigned28 _ | .unassigned29 _ | .unassigned30 _ | .unassigned31 _ => 0xF800

end Sys2Proof
end

