-- ==== Sys2Proof/Machine/Defaults.lean ====
section
/-!
DEFINITION. The default values of the open parameters (R6) and the reset values of the registers (R23). They stand in a file of their own
so that a repair can reach them; `defaultOpcodeMap` is in Decode.lean and `rgb565` in Display.lean.
-/
namespace Sys2Proof.Machine

/-- `POP_ORDER`'s default, the source's opcode table (R122, C1, D9; log 5). -/
def popOrderDefault : PopOrder := .readThenIncrement

/-- `RESTART_MODE`'s default, the original's behaviour (R74, D8; log 6). -/
def restartModeDefault : RestartMode := .replayFromZero

/-- The three parameters held in the state, at their defaults. -/
def defaultParams : Params :=
  { opcodeMap := defaultOpcodeMap, popOrder := popOrderDefault, restartMode := restartModeDefault }

/-- DESIGN CHOICE, unsafe (log 2): the spec leaves the eight registers unspecified after reset (R11); `State.reset` takes 0 for each. -/
def gprResetZero : GprReset := Vector.replicate 8 0

/-- `SP_RESET` (R5, R15). -/
def spReset : Word := 0xFFFC

/-- `PC_START` (R5, R23, R182). -/
def pcStart : Word := 0x0000

end Sys2Proof.Machine
end

