-- ==== Sys2Proof/Machine/State.lean ====
section
/-!
DEFINITION. The state of the CORE (R10 to R24), plain data; the state after reset (R23, R180); the reasons a step can stop.
-/
namespace Sys2Proof.Machine

/-- One listed word of memory: its word address and its value. The word is the machine's only addressable unit (R30; log 1). -/
abbrev Cell := Nat × Word

/-- Memory: the words that are not 0x0000, addresses strictly rising and below 65536 (`Memory.wf`). An unlisted address reads 0x0000,
which is what reset leaves in every word (R23). -/
abbrev Memory := List Cell

/-- The two faults (R160). -/
inductive FaultCause where
  /-- DIV with a zero divisor (R162), code 1. -/
  | divideByZero
  /-- A register pair above 0xFFFF in LOAD, STORE or a taken jump (R163), code 2. -/
  | addressError
deriving DecidableEq, Repr

/-- What `FAULT` holds (R18): the cause, the PC of the offending instruction, and, for `AddressError` only, the value formed. -/
structure FaultRecord where
  cause   : FaultCause
  address : Word
  info    : Option PairValue
deriving DecidableEq, Repr

/-- A diagnostic event (R7, R135): no instruction can read one. -/
inductive Event where
  /-- `UnrecognizedOpcode(PC, w)`. -/
  | unrecognizedOpcode (pc w : Word)
deriving DecidableEq, Repr

/-- All the state the spec gives the machine, then the model's own two fields. -/
structure State where
  /-- `x[0]` to `x[7]` (R10). -/
  regs   : Vector Word 8
  /-- `PC` (R13). -/
  pc     : Word
  /-- `SP` (R15). -/
  sp     : Word
  /-- `ZF` (R16). -/
  zf     : Bool
  /-- `HALTED` (R17). -/
  halted : Bool
  /-- `FAULT` (R18). -/
  fault  : Option FaultRecord
  /-- `Mem[0x0000]` to `Mem[0xFFFF]` (R21). -/
  mem    : Memory
  /-- The MODEL's own: the diagnostic events so far, oldest first (R7, R135; log 10). No meaning reads it. -/
  trace  : List Event
  /-- The MODEL's own: the open parameters the step takes as arguments (R6; log 3, 5, 6). Nothing changes them. -/
  params : Params
deriving DecidableEq, Repr

/-- The state after reset (R23, R180) for given values of the open parameters `GPR_RESET` and the three of `Params`. -/
def State.resetWith (gpr : GprReset) (params : Params) : State where
  regs   := gpr
  pc     := pcStart
  sp     := spReset
  zf     := false
  halted := false
  fault  := none
  mem    := []
  trace  := []
  params := params

/-- The machine right after reset, with the defaults of R6 and, DESIGN CHOICE (log 2), general registers of 0. -/
def State.reset : State := State.resetWith gprResetZero defaultParams

/-- Why a step is not taken. No instruction raises one of these: the machine's own two faults are latched in `State.fault` and the
step that latches one answers a next state (R161; log 9). -/
inductive Fault where
  /-- Raised by `step` when `HALTED` is set: "the CORE takes no step" (R75, U21; log 8). Safe: nothing is claimed of such a step. -/
  | coreHalted
  /-- Raised by `step` when `FAULT` is set: only reset leaves that condition (R75, R168; log 8). Safe: nothing is claimed of such a step. -/
  | coreFaulted
deriving DecidableEq, Repr

/-- Why an instruction has no meaning in the model. -/
inductive Refusal where
  /-- An instruction without a meaning, raised by no arm: every instruction has one. Safe: nothing is claimed of it. -/
  | notModelled (mnemonic : String)
deriving DecidableEq, Repr

end Sys2Proof.Machine
end

