-- ==== Sys2Proof/Machine/Ops.lean ====
section
/-!
DEFINITION. The named operations over memory, registers and PC, the fetch, raising a fault (R161) and emitting a diagnostic (R135). Every
meaning reads and writes the state through these.
-/
namespace Sys2Proof.Machine

/-! ## Memory (R45) -/

/-- `MemRead(a, 1)`: the word at `a`; an unlisted word is 0x0000. -/
def Memory.read (m : Memory) (a : Nat) : Word :=
  match m with
  | [] => 0
  | (b, v) :: rest => if a = b then v else Memory.read rest a

/-- The memory without any cell at `a`. -/
def Memory.erase (m : Memory) (a : Nat) : Memory := m.filter (fun c => decide (c.1 ≠ a))

/-- Put a cell before the first one of a higher address. -/
def Memory.insert (m : Memory) (a : Nat) (v : Word) : Memory :=
  match m with
  | [] => [(a, v)]
  | (b, u) :: rest => if a < b then (a, v) :: (b, u) :: rest else (b, u) :: Memory.insert rest a v

/-- `MemWrite(a, 1, v)`: `Mem[a]` becomes `v` and no other location changes; the canonical form is kept. -/
def Memory.write (m : Memory) (a : Nat) (v : Word) : Memory :=
  if v = 0 then m.erase a else (m.erase a).insert a v

/-- Every cell lies at `lo` or above, below 65536, in strictly rising order, and holds a word other than 0x0000. -/
def Memory.wfFrom (lo : Nat) (m : Memory) : Bool :=
  match m with
  | [] => true
  | (a, v) :: rest => decide (lo ≤ a) && decide (a < 65536) && decide (v ≠ 0) && Memory.wfFrom (a + 1) rest

/-- The canonical form of memory: equal memories are then equal lists. -/
def Memory.wf (m : Memory) : Bool := Memory.wfFrom 0 m

/-- Words written at consecutive addresses from `a` up (R184). -/
def Memory.writeList (m : Memory) (a : Nat) (ws : List Word) : Memory :=
  match ws with
  | [] => m
  | w :: rest => Memory.writeList (Memory.write m a w) (a + 1) rest

/-- `Mem[a]` of the state, `a` a 16-bit address. -/
def State.memRead (s : State) (a : Word) : Word := s.mem.read a.toNat

/-- `Mem[a] <- v`. -/
def State.memWrite (s : State) (a v : Word) : State := { s with mem := s.mem.write a.toNat v }

/-! ## Registers -/

/-- `x[r]` (R10): no register is hardwired. -/
def State.reg (s : State) (r : Reg) : Word := s.regs[r.toNat]'r.isLt

/-- `x[r] <- v` (R10). -/
def State.setReg (s : State) (r : Reg) (v : Word) : State := { s with regs := s.regs.set r.toNat v r.isLt }

/-- `SP <- v` (R15). -/
def State.setSp (s : State) (v : Word) : State := { s with sp := v }

/-! ## PC, fetch, stopping -/

/-- `PC <- PC +16 1`: a continuing step that is not a taken jump (R14, R72). The increment wraps (log 14). -/
def State.advance (s : State) : State := { s with pc := s.pc + 1 }

/-- `PC <- target`: a taken jump (R14, R110). -/
def State.jumpTo (s : State) (target : Word) : State := { s with pc := target }

/-- `HALTED <- true`; PC stays (R130). -/
def State.halt (s : State) : State := { s with halted := true }

/-- The instruction word at PC: one read of `Mem[PC]` (R36, R70). -/
def State.fetch (s : State) : Word := s.memRead s.pc

/-- The instruction the next step runs, under the state's `OPCODE_MAP` (R70). -/
def State.nextInstr (s : State) : Instr := decode s.params.opcodeMap s.fetch

/-- `HALTED` or `FAULT` is set: the CORE takes no step (R75). -/
def State.stopped (s : State) : Bool := s.halted || s.fault.isSome

/-! ## Faults and diagnostics -/

/-- Fault entry (R161): FAULT gets (cause, PC, info) and nothing else changes; PC stays at the instruction and HALTED is not set. There is
no handler, and no return from a fault (R168): reset alone clears FAULT. -/
def State.raise (s : State) (cause : FaultCause) (info : Option PairValue) : State :=
  { s with fault := some { cause := cause, address := s.pc, info := info } }

/-- The cause codes of R160's table. -/
def FaultCause.code : FaultCause → Nat
  | .divideByZero => 1
  | .addressError => 2

/-- `emit e`: the event is appended to the trace and no state of the machine changes (R7, R135). -/
def State.emit (s : State) (e : Event) : State := { s with trace := s.trace ++ [e] }

/-! ## The outcome of an instruction -/

/-- A continuing step that is not a taken jump: the effect, then PC + 1 (R70). -/
def continueWith (s : State) : Host.Outcome State Fault Refusal := .next s.advance

end Sys2Proof.Machine
end

