-- ==== Sys2Proof/Machine/Operands.lean ====
section
/-!
DEFINITION. The operand forms: the zero-extended immediate of IMOV (R53), registers named by the instruction's fields (R51, R53; read and
written by `State.reg` and `State.setReg`), and the address formed from two registers (R73). There is no other form (R53).
-/
namespace Sys2Proof.Machine

/-- `zext_16(imm8)` (R53): never sign-extended. -/
def zext16 (imm8 : BitVec 8) : Word := imm8.setWidth 16

/-- `(h << 8) | l` on unbounded integers, which 24 bits hold exactly: neither half is masked (R73). -/
def pairValue (h l : Word) : PairValue := (h.setWidth 24 <<< 8) ||| l.setWidth 24

/-- `PairAddr(h, l)` (R73). -/
def State.pairAddr (s : State) (h l : Reg) : PairValue := pairValue (s.reg h) (s.reg l)

/-- Form the address of a register pair and go on with it, or, above 0xFFFF, raise `AddressError` with the value formed (R35, R73, R163). -/
def withPairAddr (h l : Reg) (k : Word → Host.Outcome State Fault Refusal) (s : State) :
    Host.Outcome State Fault Refusal :=
  let a := s.pairAddr h l
  if 0xFFFF < a.toNat then .next (s.raise .addressError (some a)) else k (a.setWidth 16)

end Sys2Proof.Machine
end

