-- ==== Sys2Proof/Machine/Flags.lean ====
section
/-!
DEFINITION. The one flag, ZF (R16): the one computation that writes it and the one test that reads it. There is no carry, sign or overflow
flag, and no arithmetic or logic instruction touches ZF (R16, R90, R100).
-/
namespace Sys2Proof.Machine

/-- `ZF <- (a = b)`, on all 16 bits, overwritten every time (R114, R115). -/
def State.setZfEqual (s : State) (a b : Word) : State := { s with zf := decide (a = b) }

/-- Whether a conditional jump that waits for ZF to be `wanted` is taken (R112, R113). -/
def State.zfIs (s : State) (wanted : Bool) : Bool := s.zf == wanted

end Sys2Proof.Machine
end

