-- ==== Sys2Proof/Machine/Control.lean ====
section
/-!
DEFINITION. CMP and the jumps JMP, JZ, JNZ (R110 to R115). A taken jump goes to the register pair's address or, above 0xFFFF, raises
`AddressError`; a jump not taken does not form the address.
-/
namespace Sys2Proof.Machine

/-- CMP: `ZF <- (x[r1] = x[r2])` (R114). -/
def execCmp (r1 r2 : Reg) (s : State) : Host.Outcome State Fault Refusal :=
  continueWith (s.setZfEqual (s.reg r1) (s.reg r2))

/-- The taken jump shared by the three: `PC <- PairAddr(r1, r2)`, or `AddressError` with PC kept (R110). -/
def takeJump (r1 r2 : Reg) (s : State) : Host.Outcome State Fault Refusal :=
  withPairAddr r1 r2 (fun a => .next (s.jumpTo a)) s

/-- JMP (R111). -/
def execJmp (r1 r2 : Reg) (s : State) : Host.Outcome State Fault Refusal := takeJump r1 r2 s

/-- JZ: taken if ZF is true (R112). -/
def execJz (r1 r2 : Reg) (s : State) : Host.Outcome State Fault Refusal :=
  if s.zfIs true then takeJump r1 r2 s else continueWith s

/-- JNZ: taken if ZF is false (R113). -/
def execJnz (r1 r2 : Reg) (s : State) : Host.Outcome State Fault Refusal :=
  if s.zfIs false then takeJump r1 r2 s else continueWith s

end Sys2Proof.Machine
end

