-- ==== Sys2Proof/Machine/DataMovement.lean ====
section
/-!
DEFINITION. IMOV, MOV, LOAD, STORE (R80 to R83). None of them reads or writes ZF or SP.
-/
namespace Sys2Proof.Machine

/-- IMOV: `x[r1] <- zext_16(imm8)` (R80). -/
def execImov (r1 : Reg) (imm8 : BitVec 8) (s : State) : Host.Outcome State Fault Refusal :=
  continueWith (s.setReg r1 (zext16 imm8))

/-- MOV: `x[r1] <- x[r2]` (R81). -/
def execMov (r1 r2 : Reg) (s : State) : Host.Outcome State Fault Refusal :=
  continueWith (s.setReg r1 (s.reg r2))

/-- LOAD: `x[r1] <- MemRead(PairAddr(r2, r3), 1)`, the pair read before the destination is written (R76, R82). -/
def execLoad (r1 r2 r3 : Reg) (s : State) : Host.Outcome State Fault Refusal :=
  withPairAddr r2 r3 (fun a => continueWith (s.setReg r1 (s.memRead a))) s

/-- STORE: `MemWrite(PairAddr(r1, r2), 1, x[r3])` (R83). -/
def execStore (r1 r2 r3 : Reg) (s : State) : Host.Outcome State Fault Refusal :=
  withPairAddr r1 r2 (fun a => continueWith (s.memWrite a (s.reg r3))) s

end Sys2Proof.Machine
end

