-- ==== Sys2Proof/Machine/Arithmetic.lean ====
section
/-!
DEFINITION. ADD, SUB, MUL, DIV (R90 to R94): 16-bit unsigned words, wraparound, no flag.
-/
namespace Sys2Proof.Machine

/-- The accumulating two-register form shared by the arithmetic and logic instructions: `x[r1] <- f x[r1] x[r2]` (R90, R100). -/
def accumulate (f : Word → Word → Word) (r1 r2 : Reg) (s : State) : Host.Outcome State Fault Refusal :=
  continueWith (s.setReg r1 (f (s.reg r1) (s.reg r2)))

/-- ADD: `x[r1] <- x[r1] +16 x[r2]` (R91). -/
def execAdd (r1 r2 : Reg) (s : State) : Host.Outcome State Fault Refusal :=
  accumulate (fun a b => a + b) r1 r2 s

/-- SUB: `x[r1] <- x[r1] -16 x[r2]` (R92). -/
def execSub (r1 r2 : Reg) (s : State) : Host.Outcome State Fault Refusal :=
  accumulate (fun a b => a - b) r1 r2 s

/-- MUL: `x[r1] <- x[r1] *16 x[r2]`, the low 16 bits of the product (R93). -/
def execMul (r1 r2 : Reg) (s : State) : Host.Outcome State Fault Refusal :=
  accumulate (fun a b => a * b) r1 r2 s

/-- DIV: `DivideByZero` if `x[r2] = 0`, else `x[r1] <- x[r1] div x[r2]`, the unsigned floor quotient (R94, R162). -/
def execDiv (r1 r2 : Reg) (s : State) : Host.Outcome State Fault Refusal :=
  if s.reg r2 = 0 then .next (s.raise .divideByZero none) else accumulate (fun a b => a / b) r1 r2 s

end Sys2Proof.Machine
end

