-- ==== Sys2Proof/Machine/Logic.lean ====
section
/-!
DEFINITION. AND, OR, XOR, NOT (R100 to R104): all 16 bits, no flag, no fault.
-/
namespace Sys2Proof.Machine

/-- AND: `x[r1] <- x[r1] and x[r2]` (R101). -/
def execAnd (r1 r2 : Reg) (s : State) : Host.Outcome State Fault Refusal :=
  accumulate (fun a b => a &&& b) r1 r2 s

/-- OR: `x[r1] <- x[r1] or x[r2]` (R102). -/
def execOr (r1 r2 : Reg) (s : State) : Host.Outcome State Fault Refusal :=
  accumulate (fun a b => a ||| b) r1 r2 s

/-- XOR: `x[r1] <- x[r1] xor x[r2]` (R103). -/
def execXor (r1 r2 : Reg) (s : State) : Host.Outcome State Fault Refusal :=
  accumulate (fun a b => a ^^^ b) r1 r2 s

/-- NOT: `x[r1] <- not16(x[r2])`; the old `x[r1]` is not used (R104). -/
def execNot (r1 r2 : Reg) (s : State) : Host.Outcome State Fault Refusal :=
  continueWith (s.setReg r1 (~~~ (s.reg r2)))

end Sys2Proof.Machine
end

