-- ==== Sys2Proof/Machine/Stack.lean ====
section
/-!
DEFINITION. PUSH and POP (R120 to R123). SP wraps and is never checked, so neither can fault. Under the default `POP_ORDER` they are not
inverses (R123).
-/
namespace Sys2Proof.Machine

/-- PUSH: `MemWrite(SP, 1, x[r1])`, then `SP <- SP -16 1` (R121). -/
def execPush (r1 : Reg) (s : State) : Host.Outcome State Fault Refusal :=
  continueWith ((s.memWrite s.sp (s.reg r1)).setSp (s.sp - 1))

/-- The address POP reads: SP under `read_then_increment`, SP +16 1 under `increment_then_read` (R122). -/
def State.popAddr (s : State) : Word :=
  match s.params.popOrder with
  | .readThenIncrement => s.sp
  | .incrementThenRead => s.sp + 1

/-- POP: `x[r1] <- MemRead(·, 1)` at the address of `POP_ORDER`, and `SP <- SP +16 1` (R122). -/
def execPop (r1 : Reg) (s : State) : Host.Outcome State Fault Refusal :=
  continueWith ((s.setReg r1 (s.memRead s.popAddr)).setSp (s.sp + 1))

end Sys2Proof.Machine
end

