-- ==== Sys2Proof/Machine/System.lean ====
section
/-!
DEFINITION. HLT, NOP, the reserved CALL and RET, and the ten unassigned opcodes (R130 to R136). CALL and RET are silent no-ops: the
source's call/return extension is not part of this hardware (R134, C6).
-/
namespace Sys2Proof.Machine

/-- HLT: `HALTED <- true`, PC not changed (R130). -/
def execHlt (s : State) : Host.Outcome State Fault Refusal := .next s.halt

/-- NOP: nothing, then PC + 1 (R131). -/
def execNop (s : State) : Host.Outcome State Fault Refusal := continueWith s

/-- CALL: nothing, then PC + 1; no push, no jump, no diagnostic (R132). -/
def execCall (s : State) : Host.Outcome State Fault Refusal := continueWith s

/-- RET: nothing, then PC + 1; no pop, no jump, no diagnostic (R133). -/
def execRet (s : State) : Host.Outcome State Fault Refusal := continueWith s

/-- An unrecognized opcode: `emit UnrecognizedOpcode(PC, w)`, then PC + 1; no fault and no halt (R135, R164). -/
def unrecognized (w : Word) (s : State) : Host.Outcome State Fault Refusal :=
  continueWith (s.emit (.unrecognizedOpcode s.pc w))

/-- Row UNASSIGNED_22 (R135). -/
def execUnassigned22 (w : Word) (s : State) : Host.Outcome State Fault Refusal := unrecognized w s

/-- Row UNASSIGNED_23 (R135). -/
def execUnassigned23 (w : Word) (s : State) : Host.Outcome State Fault Refusal := unrecognized w s

/-- Row UNASSIGNED_24 (R135). -/
def execUnassigned24 (w : Word) (s : State) : Host.Outcome State Fault Refusal := unrecognized w s

/-- Row UNASSIGNED_25 (R135). -/
def execUnassigned25 (w : Word) (s : State) : Host.Outcome State Fault Refusal := unrecognized w s

/-- Row UNASSIGNED_26 (R135). -/
def execUnassigned26 (w : Word) (s : State) : Host.Outcome State Fault Refusal := unrecognized w s

/-- Row UNASSIGNED_27 (R135). -/
def execUnassigned27 (w : Word) (s : State) : Host.Outcome State Fault Refusal := unrecognized w s

/-- Row UNASSIGNED_28 (R135). -/
def execUnassigned28 (w : Word) (s : State) : Host.Outcome State Fault Refusal := unrecognized w s

/-- Row UNASSIGNED_29 (R135). -/
def execUnassigned29 (w : Word) (s : State) : Host.Outcome State Fault Refusal := unrecognized w s

/-- Row UNASSIGNED_30 (R135). -/
def execUnassigned30 (w : Word) (s : State) : Host.Outcome State Fault Refusal := unrecognized w s

/-- Row UNASSIGNED_31 (R135). -/
def execUnassigned31 (w : Word) (s : State) : Host.Outcome State Fault Refusal := unrecognized w s

end Sys2Proof.Machine
end

