-- ==== Sys2Proof/Machine/Dispatch.lean ====
section
/-!
DEFINITION. `exec`: one arm per instruction, each a direct call of its meaning (R70's dispatch). No instruction is refused.
-/
namespace Sys2Proof.Machine

def exec (i : Instr) (s : State) : Host.Outcome State Fault Refusal :=
  match i with
  | .hlt => Sys2Proof.Machine.execHlt s
  | .imov r1 imm8 => Sys2Proof.Machine.execImov r1 imm8 s
  | .mov r1 r2 => Sys2Proof.Machine.execMov r1 r2 s
  | .load r1 r2 r3 => Sys2Proof.Machine.execLoad r1 r2 r3 s
  | .store r1 r2 r3 => Sys2Proof.Machine.execStore r1 r2 r3 s
  | .add r1 r2 => Sys2Proof.Machine.execAdd r1 r2 s
  | .sub r1 r2 => Sys2Proof.Machine.execSub r1 r2 s
  | .mul r1 r2 => Sys2Proof.Machine.execMul r1 r2 s
  | .div r1 r2 => Sys2Proof.Machine.execDiv r1 r2 s
  | .and r1 r2 => Sys2Proof.Machine.execAnd r1 r2 s
  | .or r1 r2 => Sys2Proof.Machine.execOr r1 r2 s
  | .xor r1 r2 => Sys2Proof.Machine.execXor r1 r2 s
  | .not r1 r2 => Sys2Proof.Machine.execNot r1 r2 s
  | .jmp r1 r2 => Sys2Proof.Machine.execJmp r1 r2 s
  | .jz r1 r2 => Sys2Proof.Machine.execJz r1 r2 s
  | .jnz r1 r2 => Sys2Proof.Machine.execJnz r1 r2 s
  | .push r1 => Sys2Proof.Machine.execPush r1 s
  | .pop r1 => Sys2Proof.Machine.execPop r1 s
  | .cmp r1 r2 => Sys2Proof.Machine.execCmp r1 r2 s
  | .call => Sys2Proof.Machine.execCall s
  | .ret => Sys2Proof.Machine.execRet s
  | .nop => Sys2Proof.Machine.execNop s
  | .unassigned22 w => Sys2Proof.Machine.execUnassigned22 w s
  | .unassigned23 w => Sys2Proof.Machine.execUnassigned23 w s
  | .unassigned24 w => Sys2Proof.Machine.execUnassigned24 w s
  | .unassigned25 w => Sys2Proof.Machine.execUnassigned25 w s
  | .unassigned26 w => Sys2Proof.Machine.execUnassigned26 w s
  | .unassigned27 w => Sys2Proof.Machine.execUnassigned27 w s
  | .unassigned28 w => Sys2Proof.Machine.execUnassigned28 w s
  | .unassigned29 w => Sys2Proof.Machine.execUnassigned29 w s
  | .unassigned30 w => Sys2Proof.Machine.execUnassigned30 w s
  | .unassigned31 w => Sys2Proof.Machine.execUnassigned31 w s

end Sys2Proof.Machine
end

