-- ==== Sys2Proof/Machine/Step.lean ====
section
/-!
DEFINITION. One step of the CORE (R70, R75), and the host's way to place one instruction where the next step fetches it.
-/
namespace Sys2Proof.Machine

/-- The step (R70): fetch `Mem[PC]`, decode, execute. A CORE with FAULT or HALTED set takes no step (R75): a named stop (log 8). -/
def step (s : State) : Host.Outcome State Fault Refusal :=
  if s.fault.isSome then .fault .coreFaulted
  else if s.halted then .fault .coreHalted
  else exec s.nextInstr s

/-- The state with the opcode table's word `w` as its next instruction: the word at PC, the table's own `OPCODE_MAP` (the default,
which gives the table's numbers), and a CORE that is not stopped. It stands for the image load, which no step does (log 15). -/
def State.withFetchWord (s : State) (nbits w : Nat) : State :=
  { s with
    mem := s.mem.write s.pc.toNat (BitVec.ofNat 16 (w % 2 ^ nbits))
    halted := false
    fault := none
    params := { s.params with opcodeMap := defaultOpcodeMap } }

end Sys2Proof.Machine
end

