-- ==== Sys2Proof/Machine/Display.lean ====
section
/-!
DEFINITION. The Display Adapter (R140 to R147), the CORE's only device: a window of plain memory, a read path (the render pass) and a write path
(`SetPixelData`), both used by the host only. It has no state of its own, so a render pass is a function to the pixels it emits.
-/
namespace Sys2Proof.Machine

/-- `FB_BASE` (R5, R141). -/
def fbBase : Nat := 0xF000

/-- `FB_LAST` (R5, R141): inclusive. -/
def fbLast : Nat := 0xFFFC

/-- `FB_WORDS` = 0xFFFC - 0xF000 + 1 (R5, R141). -/
def fbWords : Nat := 4093

/-- `SCREEN_W` (R5, R142). -/
def screenW : Nat := 640

/-- `SCREEN_H` (R5, R142). -/
def screenH : Nat := 480

/-- The default `PIXEL_UNPACK`, RGB565 (R144, D18; from general knowledge, log 7). -/
def rgb565 (w : Word) : Rgb :=
  { red := w.extractLsb' 11 5, green := w.extractLsb' 5 6, blue := w.extractLsb' 0 5 }

/-- "alpha is always fully opaque" (R144). -/
inductive Alpha where
  | fullyOpaque
deriving DecidableEq, Repr

/-- `Pixel(x, y, r, g, b, opaque)` (R142). -/
structure Pixel where
  x     : Nat
  y     : Nat
  color : Rgb
  alpha : Alpha
deriving DecidableEq, Repr

/-- The raster offset of position (x, y) (R142, R143). -/
def rasterOffset (x y : Nat) : Nat := y * screenW + x

/-- What a render pass emits at position (x, y): the pixel of the window word with that raster offset, or nothing outside the window, where no word
is read (R142, R143). -/
def pixelAt (unpack : PixelUnpack) (s : State) (x y : Nat) : Option Pixel :=
  if rasterOffset x y < fbWords then
    some { x := x, y := y, color := unpack (s.mem.read (fbBase + rasterOffset x y)), alpha := .fullyOpaque }
  else none

/-- One row of the canvas, x from 0 up. -/
def renderRow (unpack : PixelUnpack) (s : State) (y : Nat) : List Pixel :=
  (List.range screenW).filterMap (fun x => pixelAt unpack s x y)

/-- The render pass (R142): the pixels emitted, row by row; it changes no state. The order of visiting is not observable (log 17). -/
def renderPass (unpack : PixelUnpack) (s : State) : List Pixel :=
  (List.range screenH).flatMap (fun y => renderRow unpack s y)

/-- `address` lies within the framebuffer window, both ends included (R141, R145). -/
def inWindow (address : Int) : Bool := decide ((fbBase : Int) ≤ address ∧ address ≤ (fbLast : Int))

/-- `SetPixelData(address, value)` (R145): the window word is written; any other address, an integer of any size, is silently ignored. -/
def State.setPixelData (s : State) (address : Int) (value : Word) : State :=
  if inWindow address then { s with mem := s.mem.write (fbBase + (address - (fbBase : Int)).toNat) value } else s

end Sys2Proof.Machine
end

