-- ==== Sys2Proof/WellFormed.lean ====
section
/-!
DEFINITION. What makes an opcode map, an instruction and a program image well formed. Register indices, the immediate and the opcode are
bit vectors of their fields' widths, so no check on them is left to make (R51); the checks that remain are that the map is injective (R6),
that an unassigned opcode's instruction carries a word of that opcode (R135), and that an image fits the memory (R184, U22).
-/
namespace Sys2Proof

/-- `OPCODE_MAP` is "injective ... from the 22 mnemonics to 5-bit codes" (R6). -/
def OpcodeMap.wellFormed (m : OpcodeMap) : Bool := decide m.toList.Nodup

/-- The instruction can come from a word under the map `m`: only the unassigned opcodes leave anything to check. -/
def Instr.wellFormed (m : OpcodeMap) (i : Instr) : Bool :=
  match i with
  | .unassigned22 w | .unassigned23 w | .unassigned24 w | .unassigned25 w | .unassigned26 w | .unassigned27 w
  | .unassigned28 w | .unassigned29 w | .unassigned30 w | .unassigned31 w => codeOf m (rowOfInstr i) == opcodeOf w
  | .hlt | .imov _ _ | .mov _ _ | .load _ _ _ | .store _ _ _ | .add _ _ | .sub _ _ | .mul _ _ | .div _ _
  | .and _ _ | .or _ _ | .xor _ _ | .not _ _ | .jmp _ _ | .jz _ _ | .jnz _ _ | .push _ | .pop _ | .cmp _ _
  | .call | .ret | .nop => true

/-- A program image has 1 to 65536 words (R176, R184). -/
def imageWellFormed (image : List Word) : Bool := decide (1 ≤ image.length ∧ image.length ≤ 65536)

end Sys2Proof
end

