-- ==== Sys2Proof/Machine/HostEvents.lean ====
section
/-!
DEFINITION. What the host does to the CORE outside a pass: the image load (R184, R31) and the start of a pass (R74, R183). Reset is
`State.resetWith` (R180); the render pass and the pixel write are in Display.lean.
-/
namespace Sys2Proof.Machine

/-- Why the loader rejects a program image (R176, U22; log 13): the CORE is then never started. -/
inductive LoadError where
  /-- "empty program image: fatal" (R176). -/
  | emptyImage
  /-- More than `MEM_WORDS` words: the source gives a loader nothing to do with it (R184, D21). -/
  | imageTooLong
  /-- A file of an odd number of bytes: not a sequence of 16-bit words (R31, N11). -/
  | oddByteCount
deriving DecidableEq, Repr

/-- One little-endian word of an image file: `byte[2k] + 256 * byte[2k+1]` (R31, D21; log 16). -/
def wordOfBytes (lo hi : Byte) : Word := hi ++ lo

/-- The words of an image file (R31, R184). -/
def imageOfBytes (bytes : List Byte) : Except LoadError (List Word) :=
  match bytes with
  | [] => .ok []
  | [_] => .error .oddByteCount
  | lo :: hi :: rest =>
    match imageOfBytes rest with
    | .ok ws => .ok (wordOfBytes lo hi :: ws)
    | .error e => .error e

/-- The image load (R184): word k of the image goes to `Mem[k]` and nothing else changes; an empty or oversize image is refused (R176). -/
def State.loadImage (s : State) (image : List Word) : Except LoadError State :=
  if image.isEmpty then .error .emptyImage
  else if imageWellFormed image then .ok { s with mem := s.mem.writeList 0 image }
  else .error .imageTooLong

/-- The start of a pass (R74): `PC <- 0`, `HALTED <- false` and nothing else. With FAULT set it is not allowed; asked anyway, nothing changes
(R74, R168, V132; log 12). -/
def State.startPass (s : State) : State :=
  if s.fault.isSome then s else { s with pc := pcStart, halted := false }

end Sys2Proof.Machine
end

