-- ==== Sys2Proof/Machine/Pass.lean ====
section
/-!
DEFINITION. The driving loop (R71): steps until the first halt or fault. A pass may have no end (R9), so the loop is given a number of steps (log 18).
-/
namespace Sys2Proof.Machine

/-- At most `n` steps, ending at the first state that takes none (R71, R75). -/
def State.runFor (n : Nat) (s : State) : State :=
  match n with
  | 0 => s
  | k + 1 =>
    match step s with
    | .next t => State.runFor k t
    | .fault _ => s
    | .refused _ => s

/-- `Pass()` of R71, cut off after `n` steps: the start of the pass, then the loop. -/
def State.passFor (n : Nat) (s : State) : State := State.runFor n s.startPass

/-- How the CORE stands after some steps (R9): still running, at the normal end of a pass, or faulted. -/
inductive RunStatus where
  | running
  | halted
  | faulted (record : FaultRecord)
deriving DecidableEq, Repr

/-- The indications the host reads (R186). A faulted CORE is not a halted one (R161). -/
def State.status (s : State) : RunStatus :=
  match s.fault with
  | some r => .faulted r
  | none => if s.halted then .halted else .running

end Sys2Proof.Machine
end

