-- ==== Sys2Proof/Machine/Session.lean ====
section
/-!
DEFINITION. The two agents together (R8): a CORE and the host's bookkeeping of what it may do when (R186). The CORE moves only while a pass runs,
the host only while none does, quit apart (R36, R146). This stands beside `step`, in which the host has no move (R186; log 11).
-/
namespace Sys2Proof.Machine

/-- Where the host stands (R186). "Idle" is every phase but `running`. -/
inductive Phase where
  /-- After reset, no image loaded. -/
  | afterReset
  /-- The image is loaded and no pass has started. -/
  | loaded
  /-- A pass is running. -/
  | running
  /-- At least one pass has started since reset and it has ended. -/
  | ended
deriving DecidableEq, Repr

/-- The CORE, the phase, the frames rendered so far (oldest first), and whether the host has quit. -/
structure Session where
  core   : State
  phase  : Phase
  frames : List (List Pixel)
  quit   : Bool
deriving DecidableEq, Repr

/-- The events of R186's table. A reset names the values the general registers take, which the spec leaves open (R11, R180). -/
inductive HostEvent where
  | reset (gpr : GprReset)
  | imageLoad (image : List Word)
  | startPass
  | renderPass
  | setPixelData (address : Int) (value : Word)
  | quit
deriving DecidableEq, Repr

/-- "Idle means no pass is running" (R186). -/
def Session.idle (s : Session) : Bool := decide (s.phase ≠ .running)

/-- A session right after reset. -/
def Session.start (gpr : GprReset) (params : Params) : Session :=
  { core := State.resetWith gpr params, phase := .afterReset, frames := [], quit := false }

/-- A start of a pass is allowed: idle, an image loaded (R184), FAULT none, and, under `single_pass`, no pass started since reset (R74, R186). -/
def Session.mayStart (s : Session) : Bool :=
  (decide (s.phase = .loaded) || (decide (s.phase = .ended) && decide (s.core.params.restartMode = .replayFromZero)))
    && s.core.fault.isNone

/-- The host's move (R186): `none` where the table does not allow the event. Nothing follows a quit. -/
def Session.host (unpack : PixelUnpack) (e : HostEvent) (s : Session) : Option Session :=
  if s.quit then none
  else match e with
    | .reset gpr =>
      if s.idle then some { s with core := State.resetWith gpr s.core.params, phase := .afterReset } else none
    | .imageLoad image =>
      if s.phase = .afterReset then
        match s.core.loadImage image with
        | .ok t => some { s with core := t, phase := .loaded }
        | .error _ => none
      else none
    | .startPass => if s.mayStart then some { s with core := s.core.startPass, phase := .running } else none
    | .renderPass =>
      if s.phase = .ended then some { s with frames := s.frames ++ [Machine.renderPass unpack s.core] } else none
    | .setPixelData address value =>
      if s.idle then some { s with core := s.core.setPixelData address value } else none
    | .quit => some { s with quit := true }

/-- The CORE's move: one step of the running pass, which ends at the first halt or fault (R71). -/
def Session.coreStep (s : Session) : Option Session :=
  if s.phase = .running then
    match step s.core with
    | .next t => some { s with core := t, phase := if t.stopped then .ended else .running }
    | .fault _ => none
    | .refused _ => none
  else none

end Sys2Proof.Machine
end

