-- ==== Sys2Proof/Safety.lean ====
section
/-!
DEFINITION. The words claims are stated in: which state elements a step leaves alone, what an instruction may write and form, the invariants
every step keeps, the normal end of a pass and a hang. A faulted state is never a normal end (R9, R161).
-/
namespace Sys2Proof.Machine

/-! ## Frames: what a step leaves as it was -/

/-- Every general register reads as before. -/
def SameRegs (s t : State) : Prop := ∀ q : Reg, t.reg q = s.reg q

/-- Every general register but `r` reads as before. -/
def SameRegsBut (r : Reg) (s t : State) : Prop := ∀ q : Reg, q ≠ r → t.reg q = s.reg q

/-- Every memory word reads as before. -/
def SameMem (s t : State) : Prop := ∀ a : Word, t.memRead a = s.memRead a

/-- Every memory word but the one at `b` reads as before. -/
def SameMemBut (b : Word) (s t : State) : Prop := ∀ a : Word, a ≠ b → t.memRead a = s.memRead a

/-- HALTED and FAULT are as before. -/
def SameLatches (s t : State) : Prop := t.halted = s.halted ∧ t.fault = s.fault

/-- The model's own fields, the diagnostic trace and the parameters, are as before. -/
def SameModel (s t : State) : Prop := t.trace = s.trace ∧ t.params = s.params

/-- PC is one further on, modulo 65536 (R14). -/
def PcNext (s t : State) : Prop := t.pc.toNat = (s.pc.toNat + 1) % 65536

/-- A continuing step that writes register `r` and nothing else but PC. -/
def WritesOnlyReg (r : Reg) (s t : State) : Prop :=
  PcNext s t ∧ SameRegsBut r s t ∧ t.sp = s.sp ∧ t.zf = s.zf ∧ SameMem s t ∧ SameLatches s t ∧ SameModel s t

/-- A step after which nothing but PC has changed. -/
def WritesOnlyPc (s t : State) : Prop :=
  SameRegs s t ∧ t.sp = s.sp ∧ t.zf = s.zf ∧ SameMem s t ∧ SameLatches s t ∧ SameModel s t

/-- Fault entry (R161): FAULT holds (cause, PC of the instruction, info) and nothing else has changed, PC and HALTED included. -/
def FaultEntry (cause : FaultCause) (info : Option PairValue) (s t : State) : Prop :=
  t.fault = some { cause := cause, address := s.pc, info := info } ∧ t.pc = s.pc ∧ t.halted = s.halted ∧
    SameRegs s t ∧ t.sp = s.sp ∧ t.zf = s.zf ∧ SameMem s t ∧ SameModel s t

/-- The two states agree on everything an instruction can read: all but HALTED, FAULT and the diagnostic trace (R17, R18, R135). -/
def SameReadable (s t : State) : Prop :=
  t.regs = s.regs ∧ t.pc = s.pc ∧ t.sp = s.sp ∧ t.zf = s.zf ∧ t.mem = s.mem ∧ t.params = s.params

/-! ## What an instruction may write and form -/

/-- The one general register an instruction writes, always through `r1` (R10, R76). -/
def destReg : Instr → Option Reg
  | .imov r1 _ | .mov r1 _ | .load r1 _ _ | .add r1 _ | .sub r1 _ | .mul r1 _ | .div r1 _
  | .and r1 _ | .or r1 _ | .xor r1 _ | .not r1 _ | .pop r1 => some r1
  | .hlt | .store _ _ _ | .jmp _ _ | .jz _ _ | .jnz _ _ | .push _ | .cmp _ _ | .call | .ret | .nop
  | .unassigned22 _ | .unassigned23 _ | .unassigned24 _ | .unassigned25 _ | .unassigned26 _ | .unassigned27 _
  | .unassigned28 _ | .unassigned29 _ | .unassigned30 _ | .unassigned31 _ => none

/-- The value an instruction stores in memory and its address, if it stores one: STORE to a legal pair, and PUSH (R83, R121). -/
def storedWord (s : State) : Instr → Option (Word × Word)
  | .store r1 r2 r3 =>
    if 0xFFFF < (s.pairAddr r1 r2).toNat then none else some ((s.pairAddr r1 r2).setWidth 16, s.reg r3)
  | .push r1 => some (s.sp, s.reg r1)
  | .hlt | .imov _ _ | .mov _ _ | .load _ _ _ | .add _ _ | .sub _ _ | .mul _ _ | .div _ _
  | .and _ _ | .or _ _ | .xor _ _ | .not _ _ | .jmp _ _ | .jz _ _ | .jnz _ _ | .pop _ | .cmp _ _ | .call | .ret | .nop
  | .unassigned22 _ | .unassigned23 _ | .unassigned24 _ | .unassigned25 _ | .unassigned26 _ | .unassigned27 _
  | .unassigned28 _ | .unassigned29 _ | .unassigned30 _ | .unassigned31 _ => none

/-- The registers (high, low) of a jump's target, if the jump is taken (R111 to R113). -/
def takenJump (s : State) : Instr → Option (Reg × Reg)
  | .jmp r1 r2 => some (r1, r2)
  | .jz r1 r2 => if s.zf then some (r1, r2) else none
  | .jnz r1 r2 => if s.zf then none else some (r1, r2)
  | .hlt | .imov _ _ | .mov _ _ | .load _ _ _ | .store _ _ _ | .add _ _ | .sub _ _ | .mul _ _ | .div _ _
  | .and _ _ | .or _ _ | .xor _ _ | .not _ _ | .push _ | .pop _ | .cmp _ _ | .call | .ret | .nop
  | .unassigned22 _ | .unassigned23 _ | .unassigned24 _ | .unassigned25 _ | .unassigned26 _ | .unassigned27 _
  | .unassigned28 _ | .unassigned29 _ | .unassigned30 _ | .unassigned31 _ => none

/-- The register pair an instruction forms an address from: LOAD, STORE and a taken jump (R73, R160). -/
def formedPair (s : State) : Instr → Option (Reg × Reg)
  | .load _ r2 r3 => some (r2, r3)
  | .store r1 r2 _ => some (r1, r2)
  | i => takenJump s i

/-! ## Invariants -/

/-- A record the CORE can latch: `info` is there for `AddressError` only, and is a value above 0xFFFF (R18, R160, R163). -/
def FaultRecord.wf (r : FaultRecord) : Bool :=
  match r.cause, r.info with
  | .divideByZero, none => true
  | .addressError, some v => decide (0xFFFF < v.toNat)
  | .divideByZero, some _ => false
  | .addressError, none => false

/-- FAULT holds such a record, of the instruction PC still stands at, and a faulted CORE is not a halted one (R14, R161). -/
def State.faultWf (s : State) : Bool :=
  match s.fault with
  | none => true
  | some r => r.wf && decide (r.address = s.pc) && !s.halted

/-- The invariant of the CORE: memory in canonical form, FAULT as above, and an injective opcode map (R6, R18, R30). -/
def State.Inv (s : State) : Prop :=
  s.mem.wf = true ∧ s.faultWf = true ∧ s.params.opcodeMap.wellFormed = true

/-- What the host knows of the CORE in each phase: a pass has ended exactly when the CORE is stopped, and until the first start PC, SP, ZF, HALTED
and FAULT stand as reset leaves them (R75, R146, R183, R186). -/
def Session.Inv (s : Session) : Prop :=
  s.core.Inv ∧ (s.phase = .ended ↔ s.core.stopped = true) ∧
    (s.phase = .afterReset ∨ s.phase = .loaded →
      s.core.pc = 0x0000 ∧ s.core.sp = 0xFFFC ∧ s.core.zf = false ∧ s.core.halted = false ∧ s.core.fault = none)

/-! ## Runs -/

/-- The normal end of a pass: halted and not faulted (R9, R161). -/
def State.endedNormally (s : State) : Bool := s.halted && s.fault.isNone

/-- The pass started in `s` comes to its normal end in `t` (R71). -/
def PassEndsIn (s t : State) : Prop := ∃ n, s.passFor n = t ∧ t.endedNormally = true

/-- The pass started in `s` never ends: no number of steps reaches a halt or a fault (R9, U20). -/
def State.Hangs (s : State) : Prop := ∀ n, (s.passFor n).stopped = false

/-- No unrecognized opcode was executed between `s` and `t` (R135). -/
def NoDiagnostic (s t : State) : Prop := t.trace = s.trace

end Sys2Proof.Machine
end

