-- ==== Sys2Proof/Certificates/Slice0/Obligations.lean ====
section
/-!
DEFINITION. The statements for the provers, each from the numbered rules of spec/ that its docstring names. Nothing is proved here.
The encoding clauses of the instruction statements use the default `OPCODE_MAP`, as the rules' own encodings do (R54). A statement about
every state is one for every value of the three open parameters the state holds.
-/
open Sys2Proof Sys2Proof.Machine

/-! ## Encoding and decoding -/

/-- R51: the five fields of any word, as numbers, whatever its opcode; and the Decoder answers on every word. -/
def Obligations.FieldsOfEveryWord : Prop :=
  (∀ w : Word,
    (opcodeOf w).toNat = w.toNat / 2048 ∧ (r1Of w).toNat = w.toNat / 256 % 8 ∧ (r2Of w).toNat = w.toNat / 32 % 8 ∧
      (r3Of w).toNat = w.toNat / 4 % 8 ∧ (imm8Of w).toNat = w.toNat % 256) ∧
  ∀ n : Nat, n < 65536 → decodeTableWord 16 n = some (decode defaultOpcodeMap (BitVec.ofNat 16 n))

/-- R54 and `95_test_vectors.md` 2.9: one word of each of the 22 mnemonics and two unassigned ones, read by the Decoder. -/
def Obligations.TableWordsDecode : Prop :=
  [0x0000, 0x0FFF, 0x13A0, 0x194C, 0x214C, 0x2820, 0x3260, 0x3CA0, 0x46E0, 0x4940, 0x5140, 0x5940, 0x6140, 0x6EE0, 0x76E0,
      0x7EE0, 0x8300, 0x8C00, 0x9020, 0x9800, 0xA000, 0xA800, 0xB000, 0xFFFF].map (decode defaultOpcodeMap) =
    [.hlt, .imov 7 255, .mov 3 5, .load 1 2 3, .store 1 2 3, .add 0 1, .sub 2 3, .mul 4 5, .div 6 7, .and 1 2, .or 1 2, .xor 1 2,
      .not 1 2, .jmp 6 7, .jz 6 7, .jnz 6 7, .push 3, .pop 4, .cmp 0 1, .call, .ret, .nop, .unassigned22 0xB000,
      .unassigned31 0xFFFF]

/-- R54, R56: under any injective map the opcode bits alone select the row; the mnemonics' rows are those of the map's 22 codes,
and exactly ten codes are left unassigned; under the default map they are 22 to 31. -/
def Obligations.OpcodeAloneSelects : Prop :=
  (∀ m : OpcodeMap, m.wellFormed = true →
    (unassignedOpcodes m).length = 10 ∧
    (∀ w : Word, rowOfInstr (decode m w) < 22 ↔ opcodeOf w ∈ m.toList) ∧
    (∀ (w : Word) (k : Fin 22), opcodeOf w = m[k.val] → rowOfInstr (decode m w) = k.val) ∧
    ∀ w w' : Word, opcodeOf w = opcodeOf w' → rowOfInstr (decode m w) = rowOfInstr (decode m w')) ∧
  unassignedOpcodes defaultOpcodeMap = [22, 23, 24, 25, 26, 27, 28, 29, 30, 31]

/-- R59 as the inverse of R51: decoding the word of a well-formed instruction gives it back, every operand at every value, under
every injective opcode map. -/
def Obligations.DecodeOfEncode : Prop :=
  ∀ (m : OpcodeMap) (i : Instr), m.wellFormed = true → i.wellFormed m = true → decode m (encode m i) = i

/-- R55, R59: the other direction. Every word decodes to a well-formed instruction; a mnemonic's word encodes back with its ignored bits
0, an unassigned opcode's word comes back whole. -/
def Obligations.EncodeOfDecode : Prop :=
  ∀ (m : OpcodeMap) (w : Word), m.wellFormed = true →
    (decode m w).wellFormed m = true ∧
    (rowOfInstr (decode m w) < 22 → encode m (decode m w) = w &&& usedBits (decode m w)) ∧
    (22 ≤ rowOfInstr (decode m w) → encode m (decode m w) = w)

/-- R55: two words that differ only in bits the format ignores execute identically, but for the word an unassigned opcode's
diagnostic reports (R135). -/
def Obligations.IgnoredBitsHaveNoEffect : Prop :=
  ∀ (m : OpcodeMap) (w w' : Word) (s t : State), m.wellFormed = true →
    w &&& usedBits (decode m w) = w' &&& usedBits (decode m w) → exec (decode m w) s = .next t →
    (rowOfInstr (decode m w) < 22 → decode m w' = decode m w) ∧
    ∃ trace, exec (decode m w') s = .next { t with trace := trace }

/-- R59: the word of each format as a number, the opcode of its row in front. -/
def Obligations.EncodedWordLayout : Prop :=
  ∀ (m : OpcodeMap) (a b c : Reg) (v : BitVec 8),
    (∀ i ∈ [Instr.hlt, .nop, .call, .ret], (encode m i).toNat = (codeOf m (rowOfInstr i)).toNat * 2048) ∧
    (encode m (.imov a v)).toNat = (codeOf m 1).toNat * 2048 + a.toNat * 256 + v.toNat ∧
    (∀ i ∈ [Instr.push a, .pop a], (encode m i).toNat = (codeOf m (rowOfInstr i)).toNat * 2048 + a.toNat * 256) ∧
    (∀ i ∈ [Instr.mov a b, .add a b, .sub a b, .mul a b, .div a b, .and a b, .or a b, .xor a b, .not a b, .jmp a b, .jz a b,
        .jnz a b, .cmp a b],
      (encode m i).toNat = (codeOf m (rowOfInstr i)).toNat * 2048 + a.toNat * 256 + b.toNat * 32) ∧
    (∀ i ∈ [Instr.load a b c, .store a b c],
      (encode m i).toNat = (codeOf m (rowOfInstr i)).toNat * 2048 + a.toNat * 256 + b.toNat * 32 + c.toNat * 4)

/-! ## The step -/

/-- R70: a CORE that is neither halted nor faulted runs the instruction its word at PC decodes to. Nothing is added around `exec`:
the meanings move PC themselves. -/
def Obligations.StepRunsDecodedInstruction : Prop :=
  ∀ s : State, s.halted = false → s.fault = none → step s = exec (decode s.params.opcodeMap (s.memRead s.pc)) s

/-- R75: a halted or faulted CORE takes no step. That this is a named stop of the model is log 8. A halted CORE goes on only by the
start of a pass, at address 0; a faulted one not even then. -/
def Obligations.StoppedCoreTakesNoStep : Prop :=
  ∀ s : State,
    (s.fault ≠ none → step s = .fault .coreFaulted ∧ s.startPass = s) ∧
    (s.fault = none → s.halted = true →
      step s = .fault .coreHalted ∧ s.startPass.pc = 0x0000 ∧ s.startPass.stopped = false) ∧
    (s.stopped = true → ∀ n, s.runFor n = s)

/-- R9, R56: every instruction answers a next state in every state, and so does every step of a CORE that is not stopped. -/
def Obligations.EveryInstructionCompletes : Prop :=
  (∀ (i : Instr) (s : State), ∃ t, exec i s = .next t) ∧
  ∀ s : State, s.halted = false → s.fault = none → ∃ t, step s = .next t

/-- R41: a STORE or PUSH to the address of the very next instruction is seen by its fetch: the next step runs the stored word. -/
def Obligations.StoreSeenByNextFetch : Prop :=
  ∀ (i : Instr) (s t : State) (v : Word), s.halted = false → s.fault = none →
    exec i s = .next t → storedWord s i = some (t.pc, v) → step t = exec (decode s.params.opcodeMap v) t

/-- R14: where each outcome of a step leaves PC, and where the start of a pass puts it. -/
def Obligations.PcAfterEveryOutcome : Prop :=
  (∀ s t : State, step s = .next t →
    (t.halted = true → t.pc = s.pc) ∧
    (t.fault ≠ none → t.pc = s.pc) ∧
    (t.halted = false → t.fault = none →
      (∀ h l, takenJump s s.nextInstr = some (h, l) → t.pc.toNat = (s.pairAddr h l).toNat) ∧
      (takenJump s s.nextInstr = none → t.pc.toNat = (s.pc.toNat + 1) % 65536))) ∧
  ∀ s : State, s.fault = none → s.startPass.pc = 0x0000

/-! ## Data movement -/

/-- R80. -/
def Obligations.ImovWritesZeroExtended : Prop :=
  ∀ (r1 : Reg) (v : BitVec 8),
    decode defaultOpcodeMap (0b00001#5 ++ r1 ++ v) = .imov r1 v ∧
    ∀ s : State, ∃ t, exec (.imov r1 v) s = .next t ∧ (t.reg r1).toNat = v.toNat ∧ WritesOnlyReg r1 s t

/-- R81. -/
def Obligations.MovCopiesRegister : Prop :=
  ∀ (r1 r2 : Reg) (ignored : BitVec 5),
    decode defaultOpcodeMap (0b00010#5 ++ r1 ++ r2 ++ ignored) = .mov r1 r2 ∧
    ∀ s : State, ∃ t, exec (.mov r1 r2) s = .next t ∧ t.reg r1 = s.reg r2 ∧ WritesOnlyReg r1 s t

/-- R82: below 0x10000 the word at the pair's address, else the fault; it faults exactly when the high half exceeds 0x00FF. -/
def Obligations.LoadReadsPairAddress : Prop :=
  ∀ (r1 r2 r3 : Reg) (ignored : BitVec 2),
    decode defaultOpcodeMap (0b00011#5 ++ r1 ++ r2 ++ r3 ++ ignored) = .load r1 r2 r3 ∧
    ∀ s : State,
      (∀ a : Word, a.toNat = (s.pairAddr r2 r3).toNat →
        ∃ t, exec (.load r1 r2 r3) s = .next t ∧ t.reg r1 = s.memRead a ∧ WritesOnlyReg r1 s t) ∧
      (0xFFFF < (s.pairAddr r2 r3).toNat →
        ∃ t, exec (.load r1 r2 r3) s = .next t ∧ FaultEntry .addressError (some (s.pairAddr r2 r3)) s t) ∧
      (0xFFFF < (s.pairAddr r2 r3).toNat ↔ 0x00FF < (s.reg r2).toNat)

/-- R83: the word at the pair's address becomes the data register, every other word stays; above 0xFFFF the fault. -/
def Obligations.StoreWritesPairAddress : Prop :=
  ∀ (r1 r2 r3 : Reg) (ignored : BitVec 2),
    decode defaultOpcodeMap (0b00100#5 ++ r1 ++ r2 ++ r3 ++ ignored) = .store r1 r2 r3 ∧
    ∀ s : State,
      (∀ a : Word, a.toNat = (s.pairAddr r1 r2).toNat →
        ∃ t, exec (.store r1 r2 r3) s = .next t ∧ t.memRead a = s.reg r3 ∧ SameMemBut a s t ∧ PcNext s t ∧
          SameRegs s t ∧ t.sp = s.sp ∧ t.zf = s.zf ∧ SameLatches s t ∧ SameModel s t) ∧
      (0xFFFF < (s.pairAddr r1 r2).toNat →
        ∃ t, exec (.store r1 r2 r3) s = .next t ∧ FaultEntry .addressError (some (s.pairAddr r1 r2)) s t) ∧
      (0xFFFF < (s.pairAddr r1 r2).toNat ↔ 0x00FF < (s.reg r1).toNat)

/-! ## Arithmetic and logic -/

/-- R91. -/
def Obligations.AddWrapsModulo65536 : Prop :=
  ∀ (r1 r2 : Reg) (ignored : BitVec 5),
    decode defaultOpcodeMap (0b00101#5 ++ r1 ++ r2 ++ ignored) = .add r1 r2 ∧
    ∀ s : State, ∃ t, exec (.add r1 r2) s = .next t ∧
      (t.reg r1).toNat = ((s.reg r1).toNat + (s.reg r2).toNat) % 65536 ∧ WritesOnlyReg r1 s t

/-- R92: the difference modulo 65536, in 0 to 65535. -/
def Obligations.SubWrapsModulo65536 : Prop :=
  ∀ (r1 r2 : Reg) (ignored : BitVec 5),
    decode defaultOpcodeMap (0b00110#5 ++ r1 ++ r2 ++ ignored) = .sub r1 r2 ∧
    ∀ s : State, ∃ t, exec (.sub r1 r2) s = .next t ∧
      ((t.reg r1).toNat : Int) = ((s.reg r1).toNat - (s.reg r2).toNat : Int) % 65536 ∧ WritesOnlyReg r1 s t

/-- R93: the low 16 bits of the product. -/
def Obligations.MulKeepsLowHalf : Prop :=
  ∀ (r1 r2 : Reg) (ignored : BitVec 5),
    decode defaultOpcodeMap (0b00111#5 ++ r1 ++ r2 ++ ignored) = .mul r1 r2 ∧
    ∀ s : State, ∃ t, exec (.mul r1 r2) s = .next t ∧
      (t.reg r1).toNat = (s.reg r1).toNat * (s.reg r2).toNat % 65536 ∧ WritesOnlyReg r1 s t

/-- R94: the unsigned floor quotient, or `DivideByZero`. -/
def Obligations.DivFloorsOrFaults : Prop :=
  ∀ (r1 r2 : Reg) (ignored : BitVec 5),
    decode defaultOpcodeMap (0b01000#5 ++ r1 ++ r2 ++ ignored) = .div r1 r2 ∧
    ∀ s : State,
      (s.reg r2 ≠ 0 → ∃ t, exec (.div r1 r2) s = .next t ∧
        (t.reg r1).toNat = (s.reg r1).toNat / (s.reg r2).toNat ∧ WritesOnlyReg r1 s t) ∧
      (s.reg r2 = 0 → ∃ t, exec (.div r1 r2) s = .next t ∧ FaultEntry .divideByZero none s t)

/-- R90: for ADD, SUB and MUL the operands and result may be read as signed 16-bit numbers too, the result balanced modulo 65536. -/
def Obligations.SignedReadingAgrees : Prop :=
  ∀ (r1 r2 : Reg) (s : State),
    (∃ t, exec (.add r1 r2) s = .next t ∧
      (t.reg r1).toInt = ((s.reg r1).toInt + (s.reg r2).toInt).bmod 65536) ∧
    (∃ t, exec (.sub r1 r2) s = .next t ∧
      (t.reg r1).toInt = ((s.reg r1).toInt - (s.reg r2).toInt).bmod 65536) ∧
    ∃ t, exec (.mul r1 r2) s = .next t ∧
      (t.reg r1).toInt = ((s.reg r1).toInt * (s.reg r2).toInt).bmod 65536

/-- R101, R102, R103: AND, OR and XOR on each of the 16 bits. -/
def Obligations.AndOrXorBitByBit : Prop :=
  ∀ (r1 r2 : Reg) (ignored : BitVec 5),
    decode defaultOpcodeMap (0b01001#5 ++ r1 ++ r2 ++ ignored) = .and r1 r2 ∧
    decode defaultOpcodeMap (0b01010#5 ++ r1 ++ r2 ++ ignored) = .or r1 r2 ∧
    decode defaultOpcodeMap (0b01011#5 ++ r1 ++ r2 ++ ignored) = .xor r1 r2 ∧
    ∀ s : State,
      (∃ t, exec (.and r1 r2) s = .next t ∧
        (∀ k < 16, (t.reg r1).getLsbD k = ((s.reg r1).getLsbD k && (s.reg r2).getLsbD k)) ∧ WritesOnlyReg r1 s t) ∧
      (∃ t, exec (.or r1 r2) s = .next t ∧
        (∀ k < 16, (t.reg r1).getLsbD k = ((s.reg r1).getLsbD k || (s.reg r2).getLsbD k)) ∧ WritesOnlyReg r1 s t) ∧
      ∃ t, exec (.xor r1 r2) s = .next t ∧
        (∀ k < 16, (t.reg r1).getLsbD k = ((s.reg r1).getLsbD k ^^ (s.reg r2).getLsbD k)) ∧ WritesOnlyReg r1 s t

/-- R104: the complement of the SECOND field's register; the destination's old value is not used. -/
def Obligations.NotComplementsSource : Prop :=
  ∀ (r1 r2 : Reg) (ignored : BitVec 5),
    decode defaultOpcodeMap (0b01100#5 ++ r1 ++ r2 ++ ignored) = .not r1 r2 ∧
    ∀ s : State, ∃ t, exec (.not r1 r2) s = .next t ∧
      (t.reg r1).toNat = 65535 - (s.reg r2).toNat ∧ WritesOnlyReg r1 s t

/-! ## Compare and control transfer -/

/-- R114: ZF is written on every CMP, true exactly when all 16 bits are equal. -/
def Obligations.CmpSetsZfOnEquality : Prop :=
  ∀ (r1 r2 : Reg) (ignored : BitVec 5),
    decode defaultOpcodeMap (0b10010#5 ++ r1 ++ r2 ++ ignored) = .cmp r1 r2 ∧
    ∀ s : State, ∃ t, exec (.cmp r1 r2) s = .next t ∧ (t.zf = true ↔ s.reg r1 = s.reg r2) ∧
      PcNext s t ∧ SameRegs s t ∧ t.sp = s.sp ∧ SameMem s t ∧ SameLatches s t ∧ SameModel s t

/-- R111: exactly the target, or the fault with PC kept. -/
def Obligations.JmpLandsOnTarget : Prop :=
  ∀ (r1 r2 : Reg) (ignored : BitVec 5),
    decode defaultOpcodeMap (0b01101#5 ++ r1 ++ r2 ++ ignored) = .jmp r1 r2 ∧
    ∀ s : State,
      (∀ a : Word, a.toNat = (s.pairAddr r1 r2).toNat →
        ∃ t, exec (.jmp r1 r2) s = .next t ∧ t.pc = a ∧ WritesOnlyPc s t) ∧
      (0xFFFF < (s.pairAddr r1 r2).toNat →
        ∃ t, exec (.jmp r1 r2) s = .next t ∧ FaultEntry .addressError (some (s.pairAddr r1 r2)) s t)

/-- R112: taken exactly when ZF is true; not taken it falls through whatever the registers hold. -/
def Obligations.JzTakenIffZfSet : Prop :=
  ∀ (r1 r2 : Reg) (ignored : BitVec 5),
    decode defaultOpcodeMap (0b01110#5 ++ r1 ++ r2 ++ ignored) = .jz r1 r2 ∧
    ∀ s : State,
      (∀ a : Word, s.zf = true → a.toNat = (s.pairAddr r1 r2).toNat →
        ∃ t, exec (.jz r1 r2) s = .next t ∧ t.pc = a ∧ WritesOnlyPc s t) ∧
      (s.zf = true → 0xFFFF < (s.pairAddr r1 r2).toNat →
        ∃ t, exec (.jz r1 r2) s = .next t ∧ FaultEntry .addressError (some (s.pairAddr r1 r2)) s t) ∧
      (s.zf = false → ∃ t, exec (.jz r1 r2) s = .next t ∧ PcNext s t ∧ WritesOnlyPc s t)

/-- R113: taken exactly when ZF is false. -/
def Obligations.JnzTakenIffZfClear : Prop :=
  ∀ (r1 r2 : Reg) (ignored : BitVec 5),
    decode defaultOpcodeMap (0b01111#5 ++ r1 ++ r2 ++ ignored) = .jnz r1 r2 ∧
    ∀ s : State,
      (∀ a : Word, s.zf = false → a.toNat = (s.pairAddr r1 r2).toNat →
        ∃ t, exec (.jnz r1 r2) s = .next t ∧ t.pc = a ∧ WritesOnlyPc s t) ∧
      (s.zf = false → 0xFFFF < (s.pairAddr r1 r2).toNat →
        ∃ t, exec (.jnz r1 r2) s = .next t ∧ FaultEntry .addressError (some (s.pairAddr r1 r2)) s t) ∧
      (s.zf = true → ∃ t, exec (.jnz r1 r2) s = .next t ∧ PcNext s t ∧ WritesOnlyPc s t)

/-! ## Stack -/

/-- R121: the store is at the SP from before, which then moves down, wrapping at 0. -/
def Obligations.PushStoresThenMovesDown : Prop :=
  ∀ (r1 : Reg) (ignored : BitVec 8),
    decode defaultOpcodeMap (0b10000#5 ++ r1 ++ ignored) = .push r1 ∧
    ∀ s : State, ∃ t, exec (.push r1) s = .next t ∧ t.memRead s.sp = s.reg r1 ∧ SameMemBut s.sp s t ∧
      t.sp.toNat = (s.sp.toNat + 65535) % 65536 ∧ PcNext s t ∧ SameRegs s t ∧ t.zf = s.zf ∧ SameLatches s t ∧
      SameModel s t

/-- R122: both orders of `POP_ORDER`; SP moves up, wrapping at 0xFFFF; memory is not changed. -/
def Obligations.PopReadsThenMovesUp : Prop :=
  ∀ (r1 : Reg) (ignored : BitVec 8),
    decode defaultOpcodeMap (0b10001#5 ++ r1 ++ ignored) = .pop r1 ∧
    ∀ s : State, ∃ t, exec (.pop r1) s = .next t ∧
      (s.params.popOrder = .readThenIncrement → t.reg r1 = s.memRead s.sp) ∧
      (s.params.popOrder = .incrementThenRead → t.reg r1 = s.memRead t.sp) ∧
      t.sp.toNat = (s.sp.toNat + 1) % 65536 ∧ PcNext s t ∧ SameRegsBut r1 s t ∧ t.zf = s.zf ∧ SameMem s t ∧
      SameLatches s t ∧ SameModel s t

/-- R123: PUSH rA then POP rB. SP is back; under the table's order rB gets the word below the pushed one, under the other order rA's
value. -/
def Obligations.PushThenPop : Prop :=
  ∀ (rA rB : Reg) (s : State), ∃ t u, exec (.push rA) s = .next t ∧ exec (.pop rB) t = .next u ∧ u.sp = s.sp ∧
    (s.params.popOrder = .readThenIncrement → u.reg rB = s.memRead (s.sp - 1)) ∧
    (s.params.popOrder = .incrementThenRead → u.reg rB = s.reg rA) ∧ u.memRead s.sp = s.reg rA

/-! ## HLT, NOP, CALL, RET, unassigned opcodes -/

/-- R130: HALTED is set and nothing else changes, PC included. -/
def Obligations.HltStopsInPlace : Prop :=
  ∀ ignored : BitVec 11,
    decode defaultOpcodeMap (0b00000#5 ++ ignored) = .hlt ∧
    ∀ s : State, ∃ t, exec .hlt s = .next t ∧ t.halted = true ∧ t.fault = s.fault ∧ t.pc = s.pc ∧ SameRegs s t ∧
      t.sp = s.sp ∧ t.zf = s.zf ∧ SameMem s t ∧ SameModel s t

/-- R131, R132, R133: NOP, CALL and RET change nothing but PC, and emit nothing. -/
def Obligations.NopCallRetOnlyAdvance : Prop :=
  ∀ ignored : BitVec 11,
    decode defaultOpcodeMap (0b10101#5 ++ ignored) = .nop ∧ decode defaultOpcodeMap (0b10011#5 ++ ignored) = .call ∧
    decode defaultOpcodeMap (0b10100#5 ++ ignored) = .ret ∧
    ∀ (i : Instr) (s : State), i ∈ [Instr.nop, .call, .ret] →
      ∃ t, exec i s = .next t ∧ PcNext s t ∧ WritesOnlyPc s t

/-- R135: the ten unassigned opcodes emit `UnrecognizedOpcode(PC, w)` and change nothing but PC. -/
def Obligations.UnassignedEmitsAndAdvances : Prop :=
  ∀ w : Word,
    (0xB000 ≤ w.toNat → decode defaultOpcodeMap w ∈ [Instr.unassigned22 w, .unassigned23 w, .unassigned24 w, .unassigned25 w,
      .unassigned26 w, .unassigned27 w, .unassigned28 w, .unassigned29 w, .unassigned30 w, .unassigned31 w]) ∧
    ∀ (i : Instr) (s : State), i ∈ [Instr.unassigned22 w, .unassigned23 w, .unassigned24 w, .unassigned25 w,
        .unassigned26 w, .unassigned27 w, .unassigned28 w, .unassigned29 w, .unassigned30 w, .unassigned31 w] →
      ∃ t, exec i s = .next t ∧ t.trace = s.trace ++ [.unrecognizedOpcode s.pc w] ∧ PcNext s t ∧ SameRegs s t ∧ t.sp = s.sp ∧
        t.zf = s.zf ∧ SameMem s t ∧ SameLatches s t ∧ t.params = s.params

/-! ## Rules about the whole machine -/

/-- R73: what a register pair forms, and what the five instructions that form one do with a value above 0xFFFF. -/
def Obligations.PairAddressIsUnmaskedOr : Prop :=
  (∀ (s : State) (h l : Reg),
    (s.pairAddr h l).toNat = ((s.reg h).toNat * 256) ||| (s.reg l).toNat ∧
    ((s.pairAddr h l).toNat ≤ 0xFFFF ↔ (s.reg h).toNat ≤ 0x00FF) ∧
    ((s.reg h).toNat < 256 → (s.reg l).toNat < 256 →
      (s.pairAddr h l).toNat = (s.reg h).toNat * 256 + (s.reg l).toNat)) ∧
  ∀ (i : Instr) (s : State) (h l : Reg), formedPair s i = some (h, l) → 0xFFFF < (s.pairAddr h l).toNat →
    ∃ t, exec i s = .next t ∧ FaultEntry .addressError (some (s.pairAddr h l)) s t

/-- R45: a write sets its own word and changes no other, and both primitives answer at every address. -/
def Obligations.MemoryReadAfterWrite : Prop :=
  ∀ (m : Memory) (a b : Nat) (v : Word),
    Memory.read (Memory.write m a v) a = v ∧ (b ≠ a → Memory.read (Memory.write m a v) b = Memory.read m b)

/-- The canonical form says it all: two memories in canonical form that read the same at every address are the same list (the model's own
form of R21's memory, log 1). -/
def Obligations.EqualReadsEqualMemory : Prop :=
  ∀ m m' : Memory, m.wf = true → m'.wf = true → (∀ a < 65536, Memory.read m a = Memory.read m' a) → m = m'

/-- R16: ZF is false after reset; only CMP writes it, no start of a pass does, and only JZ and JNZ read it. -/
def Obligations.OnlyCmpWritesZf : Prop :=
  (∀ (gpr : GprReset) (p : Params), (State.resetWith gpr p).zf = false) ∧ (∀ s : State, s.startPass.zf = s.zf) ∧
  (∀ (i : Instr) (s t : State), exec i s = .next t →
    (∀ r1 r2, i = .cmp r1 r2 → t.zf = decide (s.reg r1 = s.reg r2)) ∧
    ((∀ r1 r2, i ≠ .cmp r1 r2) → t.zf = s.zf)) ∧
  ∀ (i : Instr) (s t : State) (z : Bool), (∀ r1 r2, i ≠ .jz r1 r2 ∧ i ≠ .jnz r1 r2) → exec i s = .next t →
    ∃ z', exec i { s with zf := z } = .next { t with zf := z' }

/-- R15, R183: only PUSH and POP move SP, by one, wrapping; no start of a pass resets it; reset puts it at 0xFFFC. -/
def Obligations.OnlyPushPopMoveSp : Prop :=
  (∀ (gpr : GprReset) (p : Params), (State.resetWith gpr p).sp = 0xFFFC) ∧ (∀ s : State, s.startPass.sp = s.sp) ∧
  ∀ (i : Instr) (s t : State), exec i s = .next t →
    t.sp = (match i with
      | .push _ => s.sp - 1
      | .pop _ => s.sp + 1
      | _ => s.sp)

/-- R10, R76: an instruction changes no general register but its destination, the register of its `r1` field. -/
def Obligations.RegisterFrameOfEveryInstruction : Prop :=
  ∀ (i : Instr) (s t : State), exec i s = .next t → ∀ q : Reg, destReg i ≠ some q → t.reg q = s.reg q

/-- R33, R76: an instruction changes no memory word but the one it stores to, STORE's pair address or PUSH's SP, and that word becomes
the value stored. -/
def Obligations.MemoryFrameOfEveryInstruction : Prop :=
  ∀ (i : Instr) (s t : State), exec i s = .next t →
    (storedWord s i = none → SameMem s t) ∧
    ∀ a v, storedWord s i = some (a, v) → t.memRead a = v ∧ SameMemBut a s t

/-- R161: fault entry is precise, leaves PC at the instruction, latches the record, does not halt, and stops the CORE at once (that the step not
taken is a named stop is the model's choice, log 8). -/
def Obligations.FaultEntryIsPrecise : Prop :=
  ∀ (i : Instr) (s t : State) (r : FaultRecord), s.fault = none → exec i s = .next t → t.fault = some r →
    t = { s with fault := some r } ∧ r.address = s.pc ∧ t.halted = s.halted ∧ t.status = .faulted r ∧
      step t = .fault .coreFaulted

/-- R160: which instructions fault, when, and with which record; every other one never does. -/
def Obligations.FaultExactlyWhen : Prop :=
  ∀ (i : Instr) (s : State), s.fault = none → ∃ t, exec i s = .next t ∧
    ∀ r : FaultRecord, t.fault = some r ↔
      (∃ r1 r2, i = .div r1 r2 ∧ s.reg r2 = 0 ∧ r = { cause := .divideByZero, address := s.pc, info := none }) ∨
      (∃ h l, formedPair s i = some (h, l) ∧ 0xFFFF < (s.pairAddr h l).toNat ∧
        r = { cause := .addressError, address := s.pc, info := some (s.pairAddr h l) })

/-- R168: in a session of CORE and host, once FAULT is set every move but a reset keeps it as it is. -/
def Obligations.FaultIsStickyUntilReset : Prop :=
  ∀ (unpack : PixelUnpack) (s s' : Session) (r : FaultRecord), s.core.fault = some r →
    s.coreStep = none ∧
    (∀ e, (∀ gpr, e ≠ .reset gpr) → s.host unpack e = some s' → s'.core.fault = some r) ∧
    (∀ gpr, s.host unpack (.reset gpr) = some s' → s'.core.fault = none)

/-- R17, R18, R135: no instruction reads HALTED, FAULT or the diagnostics: two states that agree on the rest still do after any
instruction. -/
def Obligations.LatchesAndTraceUnreadable : Prop :=
  ∀ (i : Instr) (s s' t t' : State), SameReadable s s' → exec i s = .next t → exec i s' = .next t' → SameReadable t t'

/-! ## Reset and invariants -/

/-- R23, R180: every state element after reset, for any values of the unspecified registers. -/
def Obligations.ResetValues : Prop :=
  ∀ (gpr : GprReset) (p : Params) (r : Reg) (a : Word),
    let s := State.resetWith gpr p
    s.reg r = gpr[r.toNat]'r.isLt ∧ s.pc = 0x0000 ∧ s.sp = 0xFFFC ∧ s.zf = false ∧ s.halted = false ∧ s.fault = none ∧
      s.memRead a = 0x0000

/-- The invariants hold at reset, for any registers and any injective opcode map, and at `State.reset`, which is one of these states (its
register values and the place of its parameters are the model's choice, log 2, 3). -/
def Obligations.ResetMeetsInvariants : Prop :=
  (∀ (gpr : GprReset) (p : Params), p.opcodeMap.wellFormed = true →
    (State.resetWith gpr p).Inv ∧ (Session.start gpr p).Inv) ∧
  State.reset = State.resetWith gprResetZero defaultParams ∧ State.reset.Inv

/-- Every step keeps the CORE's invariant: memory in canonical form with every address inside the 65536 words (R30, log 1); FAULT none or a record
the CORE can latch, of the instruction at PC, with HALTED clear (R18, R161); the opcode map injective. -/
def Obligations.StepKeepsInv : Prop :=
  ∀ s t : State, s.Inv → step s = .next t → t.Inv

/-- R17: HALTED is false after reset, cleared by a start of a pass of a CORE without a fault, and no instruction but HLT changes it. -/
def Obligations.OnlyHltSetsHalted : Prop :=
  (∀ (gpr : GprReset) (p : Params), (State.resetWith gpr p).halted = false) ∧
  (∀ s : State, s.fault = none → s.startPass.halted = false) ∧
  ∀ (i : Instr) (s t : State), exec i s = .next t → (i = .hlt → t.halted = true) ∧ (i ≠ .hlt → t.halted = s.halted)

/-- R135, R57, R131: a diagnostic is emitted by the unassigned opcodes only, one each, and no instruction changes the parameters (R6). -/
def Obligations.OnlyUnassignedEmit : Prop :=
  ∀ (i : Instr) (s t : State), exec i s = .next t → t.params = s.params ∧
    (rowOfInstr i < 22 → NoDiagnostic s t) ∧
    (22 ≤ rowOfInstr i → ∃ w, t.trace = s.trace ++ [.unrecognizedOpcode s.pc w])

/-- R36, R75, R146, R183, R186: every move of CORE and host keeps the session's invariant. -/
def Obligations.EveryMoveKeepsSessionInv : Prop :=
  ∀ (unpack : PixelUnpack) (s s' : Session), s.Inv →
    (s.coreStep = some s' ∨ ∃ e, s.host unpack e = some s') → s'.Inv

/-! ## The Display Adapter -/

/-- R142: the pixels a render pass emits, exactly: position (x, y) of the canvas shows the window word of its raster offset, and an offset
outside the window shows nothing. -/
def Obligations.RenderPassEmits : Prop :=
  ∀ (unpack : PixelUnpack) (s : State) (p : Pixel), p ∈ renderPass unpack s ↔
    ∃ x y : Nat, x < 640 ∧ y < 480 ∧ y * 640 + x < 4093 ∧
      p = { x := x, y := y, color := unpack (s.mem.read (0xF000 + (y * 640 + x))), alpha := .fullyOpaque }

/-- R142, R143: a render pass reads no word outside the window, and emits 4093 pixels, whatever the memory. -/
def Obligations.RenderPassReadsWindowOnly : Prop :=
  ∀ (unpack : PixelUnpack) (s t : State),
    (renderPass unpack s).length = 4093 ∧
    ((∀ a, 0xF000 ≤ a → a ≤ 0xFFFC → s.mem.read a = t.mem.read a) → renderPass unpack s = renderPass unpack t)

/-- R144: the default `PIXEL_UNPACK` (the spec's default from general knowledge, log 7) and its examples. -/
def Obligations.DefaultUnpackIsRgb565 : Prop :=
  (∀ w : Word, (rgb565 w).red.toNat = w.toNat / 2048 ∧ (rgb565 w).green.toNat = w.toNat / 32 % 64 ∧
    (rgb565 w).blue.toNat = w.toNat % 32) ∧
  [0xF800, 0x07E0, 0x001F, 0xFFFF, 0x0000].map rgb565 = [⟨31, 0, 0⟩, ⟨0, 63, 0⟩, ⟨0, 0, 31⟩, ⟨31, 63, 31⟩, ⟨0, 0, 0⟩]

/-- R145: a pixel write stores the value at its window word and nothing else, is ignored outside the window, and is seen by LOAD's read and by the
next render pass at the word's position. -/
def Obligations.SetPixelDataWritesWindowOnly : Prop :=
  ∀ (unpack : PixelUnpack) (s : State) (address : Int) (v : Word),
    (¬(0xF000 ≤ address ∧ address ≤ 0xFFFC) → s.setPixelData address v = s) ∧
    ∀ k : Nat, k < 4093 → address = 0xF000 + k →
      (∀ a : Nat, (s.setPixelData address v).mem.read a = if a = 0xF000 + k then v else s.mem.read a) ∧
      { s.setPixelData address v with mem := s.mem } = s ∧
      { x := k % 640, y := k / 640, color := unpack v, alpha := .fullyOpaque } ∈ renderPass unpack (s.setPixelData address v)

/-- R147, R43: a PUSH whose SP lies in the window is drawn: at the reset SP, 0xFFFC, at position (252, 6), and one position to the left for each
word below. -/
def Obligations.PushDrawsOnLastRow : Prop :=
  ∀ (unpack : PixelUnpack) (r1 : Reg) (s : State) (d : Nat), d ≤ 252 → s.sp.toNat = 0xFFFC - d →
    ∃ t, exec (.push r1) s = .next t ∧
      { x := 252 - d, y := 6, color := unpack (s.reg r1), alpha := .fullyOpaque } ∈ renderPass unpack t

/-! ## The host -/

/-- R74, R183: the start of a pass writes PC and HALTED and nothing else; with FAULT set it does nothing. When the host may raise it, in either
`RESTART_MODE`. -/
def Obligations.StartOfPass : Prop :=
  (∀ s : State, (s.fault = none → s.startPass = { s with pc := 0x0000, halted := false }) ∧
    (s.fault ≠ none → s.startPass = s)) ∧
  ∀ (unpack : PixelUnpack) (s : Session), s.quit = false →
    (s.host unpack .startPass ≠ none ↔ s.core.fault = none ∧
      (s.phase = .loaded ∨ s.phase = .ended ∧ s.core.params.restartMode = .replayFromZero))

/-- R71: the loop runs step after step, stops at the first stopped state, and stays there; it makes no difference in how many parts the steps are
counted. -/
def Obligations.PassStopsAtFirstHaltOrFault : Prop :=
  ∀ (s : State) (n k : Nat),
    (s.stopped = false → ∃ t, step s = .next t ∧ s.runFor (n + 1) = t.runFor n) ∧
    s.runFor (n + k) = (s.runFor n).runFor k ∧
    ((s.runFor n).stopped = true → s.runFor (n + k) = s.runFor n)

/-- R184: after reset, an image of 1 to 65536 words reads back, and every other word reads 0x0000; nothing else changes; any other image is
refused (the refusals are log 13). -/
def Obligations.ImageLoadRoundTrip : Prop :=
  ∀ (gpr : GprReset) (p : Params) (image : List Word),
    (1 ≤ image.length → image.length ≤ 65536 → ∃ t, (State.resetWith gpr p).loadImage image = .ok t ∧
      (∀ a (h : a < image.length), t.mem.read a = image[a]) ∧ (∀ a, image.length ≤ a → t.mem.read a = 0x0000) ∧
      { t with mem := [] } = State.resetWith gpr p ∧ t.mem.wf = true) ∧
    (image = [] → (State.resetWith gpr p).loadImage image = .error .emptyImage) ∧
    (65536 < image.length → (State.resetWith gpr p).loadImage image = .error .imageTooLong)

/-- R31: an image file's words are little-endian, `byte[2k] + 256 * byte[2k+1]`; a file of an odd number of bytes is refused (log 13). -/
def Obligations.ImageFileIsLittleEndian : Prop :=
  ∀ bytes : List Byte,
    (bytes.length % 2 = 1 → imageOfBytes bytes = .error .oddByteCount) ∧
    (bytes.length % 2 = 0 → ∃ ws, imageOfBytes bytes = .ok ws ∧ 2 * ws.length = bytes.length ∧
      ∀ k (h : k < ws.length) (h0 : 2 * k < bytes.length) (h1 : 2 * k + 1 < bytes.length),
        (ws[k]).toNat = (bytes[2 * k]).toNat + 256 * (bytes[2 * k + 1]).toNat)

/-- R36, R186: CORE and host never act at the same time: while a pass runs the host can only quit, and while none runs the CORE takes no step. A render
pass changes no state of the CORE, and there is none before the first pass has ended. -/
def Obligations.HostAndCoreNeverInterleave : Prop :=
  ∀ (unpack : PixelUnpack) (s : Session),
    (s.phase = .running → ∀ e, e ≠ .quit → s.host unpack e = none) ∧
    (s.phase ≠ .running → s.coreStep = none) ∧
    (∀ s', s.host unpack .renderPass = some s' →
      s'.core = s.core ∧ s.phase = .ended ∧ s'.frames = s.frames ++ [renderPass unpack s.core]) ∧
    (s.quit = true → ∀ e, s.host unpack e = none)
end

