-- ==== Sys2Proof/Laws/Decode.lean ====
section
/-!
SUPPORT. The Decoder's fields as numbers, the formats' fields, and the rows of an injective opcode map.
-/
namespace Sys2Proof

theorem toNat_append {n m : Nat} (x : BitVec n) (y : BitVec m) : (x ++ y).toNat = x.toNat * 2 ^ m + y.toNat := by
  rw [BitVec.toNat_append, ← Nat.shiftLeft_add_eq_or_of_lt y.isLt, Nat.shiftLeft_eq]

theorem opcodeOf_toNat (w : Word) : (opcodeOf w).toNat = w.toNat / 2048 % 32 := by
  simp [opcodeOf, BitVec.extractLsb'_toNat, Nat.shiftRight_eq_div_pow]

theorem r1Of_toNat (w : Word) : (r1Of w).toNat = w.toNat / 256 % 8 := by
  simp [r1Of, BitVec.extractLsb'_toNat, Nat.shiftRight_eq_div_pow]

theorem r2Of_toNat (w : Word) : (r2Of w).toNat = w.toNat / 32 % 8 := by
  simp [r2Of, BitVec.extractLsb'_toNat, Nat.shiftRight_eq_div_pow]

theorem r3Of_toNat (w : Word) : (r3Of w).toNat = w.toNat / 4 % 8 := by
  simp [r3Of, BitVec.extractLsb'_toNat, Nat.shiftRight_eq_div_pow]

theorem imm8Of_toNat (w : Word) : (imm8Of w).toNat = w.toNat % 256 := by
  simp [imm8Of, BitVec.extractLsb'_toNat]

/-! ## The fields of a word put together from fields -/

theorem opcodeOf_fields (c : Opcode) (x : BitVec 11) : opcodeOf (c ++ x) = c := by
  apply BitVec.eq_of_toNat_eq
  rw [opcodeOf_toNat, toNat_append]
  have := c.isLt; have := x.isLt
  omega

theorem r1Of_fields (c : Opcode) (a : Reg) (x : BitVec 8) : r1Of (c ++ a ++ x) = a := by
  apply BitVec.eq_of_toNat_eq
  rw [r1Of_toNat, toNat_append, toNat_append]
  have := a.isLt; have := x.isLt
  omega

theorem r2Of_fields (c : Opcode) (a b : Reg) (x : BitVec 5) : r2Of (c ++ a ++ b ++ x) = b := by
  apply BitVec.eq_of_toNat_eq
  rw [r2Of_toNat, toNat_append, toNat_append, toNat_append]
  have := b.isLt; have := x.isLt
  omega

theorem r3Of_fields (c : Opcode) (a b d : Reg) (x : BitVec 2) : r3Of (c ++ a ++ b ++ d ++ x) = d := by
  apply BitVec.eq_of_toNat_eq
  rw [r3Of_toNat, toNat_append, toNat_append, toNat_append, toNat_append]
  have := d.isLt; have := x.isLt
  omega

theorem imm8Of_fields (c : Opcode) (a : Reg) (x : BitVec 8) : imm8Of (c ++ a ++ x) = x := by
  apply BitVec.eq_of_toNat_eq
  rw [imm8Of_toNat, toNat_append, toNat_append]
  have := x.isLt
  omega

/-- The opcode of a word of format I or R1 and the like, whatever its lower fields. -/
theorem opcodeOf_r1 (c : Opcode) (a : Reg) (x : BitVec 8) : opcodeOf (c ++ a ++ x) = c := by
  apply BitVec.eq_of_toNat_eq
  rw [opcodeOf_toNat, toNat_append, toNat_append]
  have := c.isLt; have := a.isLt; have := x.isLt
  omega

theorem opcodeOf_r2 (c : Opcode) (a b : Reg) (x : BitVec 5) : opcodeOf (c ++ a ++ b ++ x) = c := by
  apply BitVec.eq_of_toNat_eq
  rw [opcodeOf_toNat, toNat_append, toNat_append, toNat_append]
  have := c.isLt; have := a.isLt; have := b.isLt; have := x.isLt
  omega

theorem opcodeOf_r3 (c : Opcode) (a b d : Reg) (x : BitVec 2) : opcodeOf (c ++ a ++ b ++ d ++ x) = c := by
  apply BitVec.eq_of_toNat_eq
  rw [opcodeOf_toNat, toNat_append, toNat_append, toNat_append, toNat_append]
  have := c.isLt; have := a.isLt; have := b.isLt; have := d.isLt; have := x.isLt
  omega

theorem r1Of_r2 (c : Opcode) (a b : Reg) (x : BitVec 5) : r1Of (c ++ a ++ b ++ x) = a := by
  apply BitVec.eq_of_toNat_eq
  rw [r1Of_toNat, toNat_append, toNat_append, toNat_append]
  have := a.isLt; have := b.isLt; have := x.isLt
  omega

theorem r1Of_r3 (c : Opcode) (a b d : Reg) (x : BitVec 2) : r1Of (c ++ a ++ b ++ d ++ x) = a := by
  apply BitVec.eq_of_toNat_eq
  rw [r1Of_toNat, toNat_append, toNat_append, toNat_append, toNat_append]
  have := a.isLt; have := b.isLt; have := d.isLt; have := x.isLt
  omega

theorem r2Of_r3 (c : Opcode) (a b d : Reg) (x : BitVec 2) : r2Of (c ++ a ++ b ++ d ++ x) = b := by
  apply BitVec.eq_of_toNat_eq
  rw [r2Of_toNat, toNat_append, toNat_append, toNat_append, toNat_append]
  have := b.isLt; have := d.isLt; have := x.isLt
  omega

/-! ## The rows of an opcode map -/

theorem mem_allOpcodes (c : Opcode) : c ∈ allOpcodes := by
  simp only [allOpcodes, List.mem_map, List.mem_range]
  exact ⟨c.toNat, c.isLt, by simp⟩

/-- Every opcode stands in some row. -/
theorem mem_rowOpcodes (m : OpcodeMap) (c : Opcode) : c ∈ rowOpcodes m := by
  by_cases h : c ∈ m.toList
  · exact List.mem_append_left _ h
  · refine List.mem_append_right _ (List.mem_filter.mpr ⟨mem_allOpcodes c, ?_⟩)
    simpa using h

theorem nodup_allOpcodes : allOpcodes.Nodup := by decide

/-- In the rows of an injective map no opcode stands twice. -/
theorem nodup_rowOpcodes {m : OpcodeMap} (h : m.wellFormed = true) : (rowOpcodes m).Nodup := by
  have h1 : m.toList.Nodup := by simpa [OpcodeMap.wellFormed] using h
  refine List.nodup_append.mpr ⟨h1, nodup_allOpcodes.filter _, ?_⟩
  intro a ha b hb hab
  have := (List.mem_filter.mp hb).2
  simp_all

/-- An injective map has 32 rows: its 22 and ten unassigned opcodes (R56). -/
theorem length_rowOpcodes {m : OpcodeMap} (h : m.wellFormed = true) : (rowOpcodes m).length = 32 := by
  have hp : (rowOpcodes m).Perm allOpcodes :=
    (List.perm_ext_iff_of_nodup (nodup_rowOpcodes h) nodup_allOpcodes).mpr
      (fun c => ⟨fun _ => mem_allOpcodes c, fun _ => mem_rowOpcodes m c⟩)
  rw [hp.length_eq]
  decide

/-- The opcode of the row an opcode stands in is that opcode. -/
theorem codeOf_rowOf (m : OpcodeMap) (c : Opcode) : codeOf m (rowOf m c) = c := by
  have h := List.idxOf_lt_length_of_mem (mem_rowOpcodes m c)
  simp [codeOf, rowOf, List.getD_eq_getElem?_getD, List.getElem?_eq_getElem h]

/-- The row of a row's opcode is that row, under an injective map. -/
theorem rowOf_codeOf {m : OpcodeMap} (h : m.wellFormed = true) {k : Nat} (hk : k < 32) : rowOf m (codeOf m k) = k := by
  have hl : k < (rowOpcodes m).length := by rw [length_rowOpcodes h]; exact hk
  have : codeOf m k = (rowOpcodes m)[k] := by
    simp [codeOf, List.getD_eq_getElem?_getD, List.getElem?_eq_getElem hl]
  rw [this]
  exact (nodup_rowOpcodes h).idxOf_getElem k hl

/-- Under an injective map every opcode's row is one of the 32. -/
theorem rowOf_lt {m : OpcodeMap} (h : m.wellFormed = true) (c : Opcode) : rowOf m c < 32 := by
  rw [← length_rowOpcodes h]
  exact List.idxOf_lt_length_of_mem (mem_rowOpcodes m c)

/-- The instruction of a row is an instruction of that row. -/
theorem rowOfInstr_instrOfRow {k : Nat} (hk : k < 32) (w : Word) : rowOfInstr (instrOfRow k w) = k := by
  interval_cases k <;> rfl

/-- Decoding is choosing the row of the opcode bits (R54, R70). -/
theorem decode_of_row {m : OpcodeMap} {w : Word} {c : Opcode} {k : Nat} (hc : opcodeOf w = c) (hk : rowOf m c = k) :
    decode m w = instrOfRow k w := by
  rw [decode, hc, hk]

/-- A row below 22 is a mnemonic's. -/
theorem rowOf_lt_22_iff (m : OpcodeMap) (c : Opcode) : rowOf m c < 22 ↔ c ∈ m.toList := by
  rw [rowOf, rowOpcodes, List.idxOf_append]
  constructor
  · intro h
    by_contra hc
    simp [hc] at h
  · intro h
    rw [if_pos h]
    simpa using List.idxOf_lt_length_of_mem h

/-! ## Words that differ in ignored bits only (R55) -/

/-- A field that lies inside a mask is the same in two words that agree on the mask. -/
theorem field_congr {w w' mask : Word} (h : w &&& mask = w' &&& mask) (lo n : Nat)
    (hm : ∀ i < n, mask.getLsbD (lo + i) = true) : w.extractLsb' lo n = w'.extractLsb' lo n := by
  ext i hi
  have := congrArg (fun v => v.getLsbD (lo + i)) h
  simpa [hm i hi] using this

/-- Masking with all bits from `k` up drops the bits below. -/
theorem and_highBits (k : Nat) (w : Word) :
    (w &&& (BitVec.allOnes 16 >>> k <<< k)).toNat = w.toNat / 2 ^ k * 2 ^ k := by
  have h1 : w &&& (BitVec.allOnes 16 >>> k <<< k) = w >>> k <<< k := by
    ext i hi
    simp
    by_cases h : i < k
    · simp [h]
    · have e : k + (i - k) = i := by omega
      rw [e, ← BitVec.getLsbD_eq_getElem hi]
      have : (65535#16).getLsbD i = true := by interval_cases i <;> rfl
      simp [h, this]
  rw [h1]
  simp only [BitVec.toNat_shiftLeft, BitVec.toNat_ushiftRight, Nat.shiftRight_eq_div_pow, Nat.shiftLeft_eq]
  exact Nat.mod_eq_of_lt (lt_of_le_of_lt (Nat.div_mul_le_self _ _) w.isLt)

end Sys2Proof
end

