-- ==== Sys2Proof/Laws/Memory.lean ====
section
/-!
SUPPORT. The laws of memory (R45): a read after a write, in any memory whatever, and that every memory operation keeps the canonical form.
-/
namespace Sys2Proof.Machine

@[simp] theorem Memory.read_nil (a : Nat) : Memory.read [] a = 0 := rfl

theorem Memory.read_cell (b : Nat) (v : Word) (rest : Memory) (a : Nat) :
    Memory.read ((b, v) :: rest) a = if a = b then v else Memory.read rest a := rfl

theorem Memory.erase_cell (b : Nat) (v : Word) (rest : Memory) (a : Nat) :
    Memory.erase ((b, v) :: rest) a = if b = a then Memory.erase rest a else (b, v) :: Memory.erase rest a := by
  by_cases h : b = a <;> simp [Memory.erase, h]

theorem Memory.read_erase (m : Memory) (a b : Nat) :
    Memory.read (m.erase a) b = if b = a then 0 else Memory.read m b := by
  induction m with
  | nil => simp [Memory.erase]
  | cons c rest ih =>
    obtain ⟨d, u⟩ := c
    rw [Memory.erase_cell, Memory.read_cell]
    by_cases hd : d = a
    · rw [if_pos hd, ih]
      by_cases hb : b = a
      · rw [if_pos hb, if_pos hb]
      · rw [if_neg hb, if_neg hb, if_neg (by omega)]
    · rw [if_neg hd, Memory.read_cell, ih]
      by_cases hb : b = d
      · rw [if_pos hb, if_neg (by omega), if_pos hb]
      · rw [if_neg hb, if_neg hb]

theorem Memory.read_insert (m : Memory) (a b : Nat) (v : Word) (ha : ∀ c ∈ m, c.1 ≠ a) :
    Memory.read (m.insert a v) b = if b = a then v else Memory.read m b := by
  induction m with
  | nil => rfl
  | cons c rest ih =>
    obtain ⟨d, u⟩ := c
    have hd : d ≠ a := ha (d, u) (by simp)
    unfold Memory.insert
    split
    · rfl
    · rw [Memory.read_cell, Memory.read_cell, ih (fun c hc => ha c (by simp [hc]))]
      by_cases hb : b = d
      · rw [if_pos hb, if_neg (by omega), if_pos hb]
      · rw [if_neg hb, if_neg hb]

theorem Memory.not_listed_erase (m : Memory) (a : Nat) : ∀ c ∈ m.erase a, c.1 ≠ a := by
  intro c hc
  simpa [Memory.erase] using (List.mem_filter.mp hc).2

/-- R45: a write sets its own location and changes no other. -/
theorem Memory.read_write (m : Memory) (a b : Nat) (v : Word) :
    Memory.read (m.write a v) b = if b = a then v else Memory.read m b := by
  unfold Memory.write
  split
  · rename_i hv
    rw [Memory.read_erase, hv]
  · rw [Memory.read_insert _ _ _ _ (Memory.not_listed_erase m a), Memory.read_erase]
    split <;> rfl

@[simp] theorem Memory.read_write_same (m : Memory) (a : Nat) (v : Word) : Memory.read (m.write a v) a = v := by
  rw [Memory.read_write, if_pos rfl]

theorem Memory.read_write_other (m : Memory) (v : Word) {a b : Nat} (h : b ≠ a) :
    Memory.read (m.write a v) b = Memory.read m b := by
  rw [Memory.read_write, if_neg h]

/-! ## The canonical form -/

theorem Memory.wfFrom_cell (lo b : Nat) (v : Word) (rest : Memory) :
    Memory.wfFrom lo ((b, v) :: rest) = true ↔ lo ≤ b ∧ b < 65536 ∧ v ≠ 0 ∧ Memory.wfFrom (b + 1) rest = true := by
  simp [Memory.wfFrom, and_assoc]

theorem Memory.wfFrom_mono {m : Memory} {lo lo' : Nat} (h : Memory.wfFrom lo m = true) (hl : lo' ≤ lo) :
    Memory.wfFrom lo' m = true := by
  cases m with
  | nil => rfl
  | cons c rest =>
    rw [Memory.wfFrom_cell] at h ⊢
    exact ⟨by omega, h.2⟩

theorem Memory.wfFrom_erase {m : Memory} {lo : Nat} (h : Memory.wfFrom lo m = true) (a : Nat) :
    Memory.wfFrom lo (m.erase a) = true := by
  induction m generalizing lo with
  | nil => rfl
  | cons c rest ih =>
    obtain ⟨b, u⟩ := c
    rw [Memory.wfFrom_cell] at h
    rw [Memory.erase_cell]
    split
    · exact Memory.wfFrom_mono (ih h.2.2.2) (by omega)
    · exact (Memory.wfFrom_cell ..).mpr ⟨h.1, h.2.1, h.2.2.1, ih h.2.2.2⟩

theorem Memory.wfFrom_insert {m : Memory} {lo a : Nat} {v : Word} (h : Memory.wfFrom lo m = true)
    (ha : ∀ c ∈ m, c.1 ≠ a) (hl : lo ≤ a) (hm : a < 65536) (hv : v ≠ 0) : Memory.wfFrom lo (m.insert a v) = true := by
  induction m generalizing lo with
  | nil => exact (Memory.wfFrom_cell ..).mpr ⟨hl, hm, hv, rfl⟩
  | cons c rest ih =>
    obtain ⟨b, u⟩ := c
    have hb : b ≠ a := ha (b, u) (by simp)
    rw [Memory.wfFrom_cell] at h
    unfold Memory.insert
    split
    · exact (Memory.wfFrom_cell ..).mpr ⟨hl, hm, hv, (Memory.wfFrom_cell ..).mpr ⟨by omega, h.2⟩⟩
    · exact (Memory.wfFrom_cell ..).mpr
        ⟨h.1, h.2.1, h.2.2.1, ih h.2.2.2 (fun c hc => ha c (by simp [hc])) (by omega)⟩

/-- A write keeps the canonical form. -/
theorem Memory.wf_write {m : Memory} {a : Nat} (v : Word) (h : m.wf = true) (ha : a < 65536) :
    (m.write a v).wf = true := by
  unfold Memory.write
  split
  · exact Memory.wfFrom_erase h a
  · rename_i hv
    exact Memory.wfFrom_insert (Memory.wfFrom_erase h a) (Memory.not_listed_erase m a) (Nat.zero_le a) ha hv

/-- A list of writes within the memory keeps the canonical form. -/
theorem Memory.wf_writeList {m : Memory} {a : Nat} {ws : List Word} (h : m.wf = true) (ha : a + ws.length ≤ 65536) :
    (m.writeList a ws).wf = true := by
  induction ws generalizing m a with
  | nil => exact h
  | cons w rest ih =>
    simp only [List.length_cons] at ha
    exact ih (Memory.wf_write w h (by omega)) (by omega)

/-- Below a memory's first possible address nothing is listed. -/
theorem Memory.read_of_lt {m : Memory} {lo : Nat} (h : Memory.wfFrom lo m = true) {a : Nat} (ha : a < lo) :
    Memory.read m a = 0 := by
  induction m generalizing lo with
  | nil => rfl
  | cons c rest ih =>
    obtain ⟨b, v⟩ := c
    rw [Memory.wfFrom_cell] at h
    rw [Memory.read_cell, if_neg (by omega)]
    exact ih h.2.2.2 (by omega)

/-- What a list of writes leaves at an address: the list's word there, or what was there before. -/
theorem Memory.read_writeList (m : Memory) (a : Nat) (ws : List Word) (b : Nat) :
    Memory.read (m.writeList a ws) b =
      if a ≤ b ∧ b < a + ws.length then ws.getD (b - a) 0 else Memory.read m b := by
  induction ws generalizing m a with
  | nil =>
    rw [if_neg (by rw [List.length_nil]; omega)]
    rfl
  | cons w rest ih =>
    unfold Memory.writeList
    rw [ih, Memory.read_write]
    simp only [List.length_cons]
    by_cases h0 : b = a
    · subst h0
      rw [if_neg (by omega), if_pos rfl, if_pos (by omega)]
      simp
    · by_cases h1 : a + 1 ≤ b ∧ b < a + 1 + rest.length
      · rw [if_pos h1, if_pos (by omega)]
        obtain ⟨k, rfl⟩ : ∃ k, b = a + 1 + k := ⟨b - (a + 1), by omega⟩
        rw [show a + 1 + k - (a + 1) = k by omega, show a + 1 + k - a = k + 1 by omega]
        simp
      · rw [if_neg h1, if_neg h0, if_neg (by omega)]

end Sys2Proof.Machine
end

