-- ==== Sys2Proof/Laws/State.lean ====
section
/-!
SUPPORT. One lemma per field per named update of the state, so that no later proof unfolds a record update.
-/
namespace Sys2Proof.Machine

@[simp] theorem State.memWrite_regs (s : State) (a v : Word) : (s.memWrite a v).regs = s.regs := rfl
@[simp] theorem State.memWrite_pc (s : State) (a v : Word) : (s.memWrite a v).pc = s.pc := rfl
@[simp] theorem State.memWrite_sp (s : State) (a v : Word) : (s.memWrite a v).sp = s.sp := rfl
@[simp] theorem State.memWrite_zf (s : State) (a v : Word) : (s.memWrite a v).zf = s.zf := rfl
@[simp] theorem State.memWrite_halted (s : State) (a v : Word) : (s.memWrite a v).halted = s.halted := rfl
@[simp] theorem State.memWrite_fault (s : State) (a v : Word) : (s.memWrite a v).fault = s.fault := rfl
@[simp] theorem State.memWrite_mem (s : State) (a v : Word) : (s.memWrite a v).mem = s.mem.write a.toNat v := rfl
@[simp] theorem State.memWrite_trace (s : State) (a v : Word) : (s.memWrite a v).trace = s.trace := rfl
@[simp] theorem State.memWrite_params (s : State) (a v : Word) : (s.memWrite a v).params = s.params := rfl

@[simp] theorem State.setReg_regs (s : State) (r : Reg) (v : Word) : (s.setReg r v).regs = s.regs.set r.toNat v r.isLt := rfl
@[simp] theorem State.setReg_pc (s : State) (r : Reg) (v : Word) : (s.setReg r v).pc = s.pc := rfl
@[simp] theorem State.setReg_sp (s : State) (r : Reg) (v : Word) : (s.setReg r v).sp = s.sp := rfl
@[simp] theorem State.setReg_zf (s : State) (r : Reg) (v : Word) : (s.setReg r v).zf = s.zf := rfl
@[simp] theorem State.setReg_halted (s : State) (r : Reg) (v : Word) : (s.setReg r v).halted = s.halted := rfl
@[simp] theorem State.setReg_fault (s : State) (r : Reg) (v : Word) : (s.setReg r v).fault = s.fault := rfl
@[simp] theorem State.setReg_mem (s : State) (r : Reg) (v : Word) : (s.setReg r v).mem = s.mem := rfl
@[simp] theorem State.setReg_trace (s : State) (r : Reg) (v : Word) : (s.setReg r v).trace = s.trace := rfl
@[simp] theorem State.setReg_params (s : State) (r : Reg) (v : Word) : (s.setReg r v).params = s.params := rfl

@[simp] theorem State.setSp_regs (s : State) (v : Word) : (s.setSp v).regs = s.regs := rfl
@[simp] theorem State.setSp_pc (s : State) (v : Word) : (s.setSp v).pc = s.pc := rfl
@[simp] theorem State.setSp_sp (s : State) (v : Word) : (s.setSp v).sp = v := rfl
@[simp] theorem State.setSp_zf (s : State) (v : Word) : (s.setSp v).zf = s.zf := rfl
@[simp] theorem State.setSp_halted (s : State) (v : Word) : (s.setSp v).halted = s.halted := rfl
@[simp] theorem State.setSp_fault (s : State) (v : Word) : (s.setSp v).fault = s.fault := rfl
@[simp] theorem State.setSp_mem (s : State) (v : Word) : (s.setSp v).mem = s.mem := rfl
@[simp] theorem State.setSp_trace (s : State) (v : Word) : (s.setSp v).trace = s.trace := rfl
@[simp] theorem State.setSp_params (s : State) (v : Word) : (s.setSp v).params = s.params := rfl

@[simp] theorem State.advance_regs (s : State) : (s.advance).regs = s.regs := rfl
@[simp] theorem State.advance_pc (s : State) : (s.advance).pc = s.pc + 1 := rfl
@[simp] theorem State.advance_sp (s : State) : (s.advance).sp = s.sp := rfl
@[simp] theorem State.advance_zf (s : State) : (s.advance).zf = s.zf := rfl
@[simp] theorem State.advance_halted (s : State) : (s.advance).halted = s.halted := rfl
@[simp] theorem State.advance_fault (s : State) : (s.advance).fault = s.fault := rfl
@[simp] theorem State.advance_mem (s : State) : (s.advance).mem = s.mem := rfl
@[simp] theorem State.advance_trace (s : State) : (s.advance).trace = s.trace := rfl
@[simp] theorem State.advance_params (s : State) : (s.advance).params = s.params := rfl

@[simp] theorem State.jumpTo_regs (s : State) (a : Word) : (s.jumpTo a).regs = s.regs := rfl
@[simp] theorem State.jumpTo_pc (s : State) (a : Word) : (s.jumpTo a).pc = a := rfl
@[simp] theorem State.jumpTo_sp (s : State) (a : Word) : (s.jumpTo a).sp = s.sp := rfl
@[simp] theorem State.jumpTo_zf (s : State) (a : Word) : (s.jumpTo a).zf = s.zf := rfl
@[simp] theorem State.jumpTo_halted (s : State) (a : Word) : (s.jumpTo a).halted = s.halted := rfl
@[simp] theorem State.jumpTo_fault (s : State) (a : Word) : (s.jumpTo a).fault = s.fault := rfl
@[simp] theorem State.jumpTo_mem (s : State) (a : Word) : (s.jumpTo a).mem = s.mem := rfl
@[simp] theorem State.jumpTo_trace (s : State) (a : Word) : (s.jumpTo a).trace = s.trace := rfl
@[simp] theorem State.jumpTo_params (s : State) (a : Word) : (s.jumpTo a).params = s.params := rfl

@[simp] theorem State.halt_regs (s : State) : (s.halt).regs = s.regs := rfl
@[simp] theorem State.halt_pc (s : State) : (s.halt).pc = s.pc := rfl
@[simp] theorem State.halt_sp (s : State) : (s.halt).sp = s.sp := rfl
@[simp] theorem State.halt_zf (s : State) : (s.halt).zf = s.zf := rfl
@[simp] theorem State.halt_halted (s : State) : (s.halt).halted = true := rfl
@[simp] theorem State.halt_fault (s : State) : (s.halt).fault = s.fault := rfl
@[simp] theorem State.halt_mem (s : State) : (s.halt).mem = s.mem := rfl
@[simp] theorem State.halt_trace (s : State) : (s.halt).trace = s.trace := rfl
@[simp] theorem State.halt_params (s : State) : (s.halt).params = s.params := rfl

@[simp] theorem State.raise_regs (s : State) (c : FaultCause) (i : Option PairValue) : (s.raise c i).regs = s.regs := rfl
@[simp] theorem State.raise_pc (s : State) (c : FaultCause) (i : Option PairValue) : (s.raise c i).pc = s.pc := rfl
@[simp] theorem State.raise_sp (s : State) (c : FaultCause) (i : Option PairValue) : (s.raise c i).sp = s.sp := rfl
@[simp] theorem State.raise_zf (s : State) (c : FaultCause) (i : Option PairValue) : (s.raise c i).zf = s.zf := rfl
@[simp] theorem State.raise_halted (s : State) (c : FaultCause) (i : Option PairValue) : (s.raise c i).halted = s.halted := rfl
@[simp] theorem State.raise_fault (s : State) (c : FaultCause) (i : Option PairValue) : (s.raise c i).fault = some { cause := c, address := s.pc, info := i } := rfl
@[simp] theorem State.raise_mem (s : State) (c : FaultCause) (i : Option PairValue) : (s.raise c i).mem = s.mem := rfl
@[simp] theorem State.raise_trace (s : State) (c : FaultCause) (i : Option PairValue) : (s.raise c i).trace = s.trace := rfl
@[simp] theorem State.raise_params (s : State) (c : FaultCause) (i : Option PairValue) : (s.raise c i).params = s.params := rfl

@[simp] theorem State.emit_regs (s : State) (e : Event) : (s.emit e).regs = s.regs := rfl
@[simp] theorem State.emit_pc (s : State) (e : Event) : (s.emit e).pc = s.pc := rfl
@[simp] theorem State.emit_sp (s : State) (e : Event) : (s.emit e).sp = s.sp := rfl
@[simp] theorem State.emit_zf (s : State) (e : Event) : (s.emit e).zf = s.zf := rfl
@[simp] theorem State.emit_halted (s : State) (e : Event) : (s.emit e).halted = s.halted := rfl
@[simp] theorem State.emit_fault (s : State) (e : Event) : (s.emit e).fault = s.fault := rfl
@[simp] theorem State.emit_mem (s : State) (e : Event) : (s.emit e).mem = s.mem := rfl
@[simp] theorem State.emit_trace (s : State) (e : Event) : (s.emit e).trace = s.trace ++ [e] := rfl
@[simp] theorem State.emit_params (s : State) (e : Event) : (s.emit e).params = s.params := rfl

@[simp] theorem State.setZfEqual_regs (s : State) (a b : Word) : (s.setZfEqual a b).regs = s.regs := rfl
@[simp] theorem State.setZfEqual_pc (s : State) (a b : Word) : (s.setZfEqual a b).pc = s.pc := rfl
@[simp] theorem State.setZfEqual_sp (s : State) (a b : Word) : (s.setZfEqual a b).sp = s.sp := rfl
@[simp] theorem State.setZfEqual_zf (s : State) (a b : Word) : (s.setZfEqual a b).zf = decide (a = b) := rfl
@[simp] theorem State.setZfEqual_halted (s : State) (a b : Word) : (s.setZfEqual a b).halted = s.halted := rfl
@[simp] theorem State.setZfEqual_fault (s : State) (a b : Word) : (s.setZfEqual a b).fault = s.fault := rfl
@[simp] theorem State.setZfEqual_mem (s : State) (a b : Word) : (s.setZfEqual a b).mem = s.mem := rfl
@[simp] theorem State.setZfEqual_trace (s : State) (a b : Word) : (s.setZfEqual a b).trace = s.trace := rfl
@[simp] theorem State.setZfEqual_params (s : State) (a b : Word) : (s.setZfEqual a b).params = s.params := rfl

/-! The host's events on the fields they do not write. -/

@[simp] theorem State.startPass_regs (s : State) : s.startPass.regs = s.regs := by
  unfold State.startPass; split <;> rfl
@[simp] theorem State.startPass_sp (s : State) : s.startPass.sp = s.sp := by
  unfold State.startPass; split <;> rfl
@[simp] theorem State.startPass_zf (s : State) : s.startPass.zf = s.zf := by
  unfold State.startPass; split <;> rfl
@[simp] theorem State.startPass_mem (s : State) : s.startPass.mem = s.mem := by
  unfold State.startPass; split <;> rfl
@[simp] theorem State.startPass_trace (s : State) : s.startPass.trace = s.trace := by
  unfold State.startPass; split <;> rfl
@[simp] theorem State.startPass_params (s : State) : s.startPass.params = s.params := by
  unfold State.startPass; split <;> rfl
@[simp] theorem State.startPass_fault (s : State) : s.startPass.fault = s.fault := by
  unfold State.startPass; split <;> rfl

@[simp] theorem State.setPixelData_regs (s : State) (a : Int) (v : Word) : (s.setPixelData a v).regs = s.regs := by
  unfold State.setPixelData; split <;> rfl
@[simp] theorem State.setPixelData_pc (s : State) (a : Int) (v : Word) : (s.setPixelData a v).pc = s.pc := by
  unfold State.setPixelData; split <;> rfl
@[simp] theorem State.setPixelData_sp (s : State) (a : Int) (v : Word) : (s.setPixelData a v).sp = s.sp := by
  unfold State.setPixelData; split <;> rfl
@[simp] theorem State.setPixelData_zf (s : State) (a : Int) (v : Word) : (s.setPixelData a v).zf = s.zf := by
  unfold State.setPixelData; split <;> rfl
@[simp] theorem State.setPixelData_halted (s : State) (a : Int) (v : Word) : (s.setPixelData a v).halted = s.halted := by
  unfold State.setPixelData; split <;> rfl
@[simp] theorem State.setPixelData_fault (s : State) (a : Int) (v : Word) : (s.setPixelData a v).fault = s.fault := by
  unfold State.setPixelData; split <;> rfl
@[simp] theorem State.setPixelData_trace (s : State) (a : Int) (v : Word) : (s.setPixelData a v).trace = s.trace := by
  unfold State.setPixelData; split <;> rfl
@[simp] theorem State.setPixelData_params (s : State) (a : Int) (v : Word) : (s.setPixelData a v).params = s.params := by
  unfold State.setPixelData; split <;> rfl

@[simp] theorem State.resetWith_regs (gpr : GprReset) (p : Params) : (State.resetWith gpr p).regs = gpr := rfl
@[simp] theorem State.resetWith_pc (gpr : GprReset) (p : Params) : (State.resetWith gpr p).pc = 0x0000 := rfl
@[simp] theorem State.resetWith_sp (gpr : GprReset) (p : Params) : (State.resetWith gpr p).sp = 0xFFFC := rfl
@[simp] theorem State.resetWith_zf (gpr : GprReset) (p : Params) : (State.resetWith gpr p).zf = false := rfl
@[simp] theorem State.resetWith_halted (gpr : GprReset) (p : Params) : (State.resetWith gpr p).halted = false := rfl
@[simp] theorem State.resetWith_fault (gpr : GprReset) (p : Params) : (State.resetWith gpr p).fault = none := rfl
@[simp] theorem State.resetWith_mem (gpr : GprReset) (p : Params) : (State.resetWith gpr p).mem = [] := rfl
@[simp] theorem State.resetWith_trace (gpr : GprReset) (p : Params) : (State.resetWith gpr p).trace = [] := rfl
@[simp] theorem State.resetWith_params (gpr : GprReset) (p : Params) : (State.resetWith gpr p).params = p := rfl

end Sys2Proof.Machine
end

