-- ==== Sys2Proof/Laws/Ops.lean ====
section
/-!
SUPPORT. One lemma per shared operation that says everything it can do: registers, memory, the continuing step, the register pair, the taken
jump, the accumulating form.
-/
namespace Sys2Proof.Machine

/-! ## Registers (R10) -/

@[simp] theorem State.reg_setReg_same (s : State) (r : Reg) (v : Word) : (s.setReg r v).reg r = v := by
  simp [State.reg, State.setReg]

theorem State.reg_setReg_other (s : State) (v : Word) {r q : Reg} (h : q ≠ r) : (s.setReg r v).reg q = s.reg q := by
  have : r.toNat ≠ q.toNat := fun e => h (BitVec.eq_of_toNat_eq e.symm)
  simp [State.reg, State.setReg, this]

/-- Two states with the same register file read the same registers. -/
theorem State.reg_congr {s t : State} (h : t.regs = s.regs) (q : Reg) : t.reg q = s.reg q := by
  simp only [State.reg, h]

@[simp] theorem State.reg_memWrite (s : State) (a v : Word) (q : Reg) : (s.memWrite a v).reg q = s.reg q := rfl
@[simp] theorem State.reg_setSp (s : State) (v : Word) (q : Reg) : (s.setSp v).reg q = s.reg q := rfl
@[simp] theorem State.reg_advance (s : State) (q : Reg) : s.advance.reg q = s.reg q := rfl
@[simp] theorem State.reg_jumpTo (s : State) (a : Word) (q : Reg) : (s.jumpTo a).reg q = s.reg q := rfl
@[simp] theorem State.reg_halt (s : State) (q : Reg) : s.halt.reg q = s.reg q := rfl
@[simp] theorem State.reg_raise (s : State) (c : FaultCause) (i : Option PairValue) (q : Reg) : (s.raise c i).reg q = s.reg q := rfl
@[simp] theorem State.reg_emit (s : State) (e : Event) (q : Reg) : (s.emit e).reg q = s.reg q := rfl
@[simp] theorem State.reg_setZfEqual (s : State) (a b : Word) (q : Reg) : (s.setZfEqual a b).reg q = s.reg q := rfl

/-! ## Memory words (R45) -/

@[simp] theorem State.memRead_memWrite_same (s : State) (a v : Word) : (s.memWrite a v).memRead a = v := by
  simp [State.memRead]

theorem State.memRead_memWrite_other (s : State) (v : Word) {a b : Word} (h : b ≠ a) :
    (s.memWrite a v).memRead b = s.memRead b :=
  Memory.read_write_other _ _ (fun e => h (BitVec.eq_of_toNat_eq e))

@[simp] theorem State.memRead_setReg (s : State) (r : Reg) (v a : Word) : (s.setReg r v).memRead a = s.memRead a := rfl
@[simp] theorem State.memRead_setSp (s : State) (v a : Word) : (s.setSp v).memRead a = s.memRead a := rfl
@[simp] theorem State.memRead_advance (s : State) (a : Word) : s.advance.memRead a = s.memRead a := rfl
@[simp] theorem State.memRead_jumpTo (s : State) (b a : Word) : (s.jumpTo b).memRead a = s.memRead a := rfl
@[simp] theorem State.memRead_halt (s : State) (a : Word) : s.halt.memRead a = s.memRead a := rfl
@[simp] theorem State.memRead_raise (s : State) (c : FaultCause) (i : Option PairValue) (a : Word) : (s.raise c i).memRead a = s.memRead a := rfl
@[simp] theorem State.memRead_emit (s : State) (e : Event) (a : Word) : (s.emit e).memRead a = s.memRead a := rfl
@[simp] theorem State.memRead_setZfEqual (s : State) (x y a : Word) : (s.setZfEqual x y).memRead a = s.memRead a := rfl

/-! ## The shapes an instruction takes -/

/-- PC after a continuing step, as a number (R14). -/
theorem State.advance_pc_toNat (s : State) : s.advance.pc.toNat = (s.pc.toNat + 1) % 65536 := by
  simp [BitVec.toNat_add]

@[simp] theorem continueWith_eq (s : State) : continueWith s = .next s.advance := rfl

/-- The pair operation does one of two things (R73, R163). -/
theorem withPairAddr_eq (h l : Reg) (k : Word → Host.Outcome State Fault Refusal) (s : State) :
    withPairAddr h l k s =
      if 0xFFFF < (s.pairAddr h l).toNat then .next (s.raise .addressError (some (s.pairAddr h l)))
      else k ((s.pairAddr h l).setWidth 16) := rfl

/-- A pair at a 16-bit address: the operation goes on with that address. -/
theorem withPairAddr_of_addr {h l : Reg} {k : Word → Host.Outcome State Fault Refusal} {s : State} {a : Word}
    (ha : a.toNat = (s.pairAddr h l).toNat) : withPairAddr h l k s = k a := by
  rw [withPairAddr_eq, if_neg (by have := a.isLt; omega)]
  congr 1
  apply BitVec.eq_of_toNat_eq
  rw [BitVec.toNat_setWidth, ← ha, Nat.mod_eq_of_lt a.isLt]

/-- A pair above 0xFFFF: the fault. -/
theorem withPairAddr_of_over {h l : Reg} {k : Word → Host.Outcome State Fault Refusal} {s : State}
    (ha : 0xFFFF < (s.pairAddr h l).toNat) :
    withPairAddr h l k s = .next (s.raise .addressError (some (s.pairAddr h l))) := by
  rw [withPairAddr_eq, if_pos ha]

theorem accumulate_eq (f : Word → Word → Word) (r1 r2 : Reg) (s : State) :
    accumulate f r1 r2 s = .next (s.setReg r1 (f (s.reg r1) (s.reg r2))).advance := rfl

theorem takeJump_eq (r1 r2 : Reg) (s : State) :
    takeJump r1 r2 s = withPairAddr r1 r2 (fun a => .next (s.jumpTo a)) s := rfl

theorem unrecognized_eq (w : Word) (s : State) :
    unrecognized w s = .next (s.emit (.unrecognizedOpcode s.pc w)).advance := rfl

/-! ## The step (R70, R75) -/

theorem stopped_eq_false_iff (s : State) : s.stopped = false ↔ s.halted = false ∧ s.fault = none := by
  simp [State.stopped]

/-- A CORE that is not stopped runs the decoded instruction. -/
theorem step_of_running {s : State} (h : s.stopped = false) : step s = exec s.nextInstr s := by
  obtain ⟨h1, h2⟩ := (stopped_eq_false_iff s).mp h
  simp [step, h1, h2]

/-- A step that answers a next state was taken by a CORE that is not stopped. -/
theorem step_next {s t : State} (h : step s = .next t) : s.stopped = false ∧ exec s.nextInstr s = .next t := by
  unfold step at h
  split at h
  · cases h
  · split at h
    · cases h
    · rename_i h1 h2
      exact ⟨by simp_all [State.stopped], h⟩

/-- What a register pair forms, as a number (R73). -/
theorem pairValue_toNat (h l : Word) : (pairValue h l).toNat = (h.toNat * 256) ||| l.toNat := by
  have := h.isLt
  have := l.isLt
  simp only [pairValue, BitVec.toNat_or, BitVec.toNat_shiftLeft, BitVec.toNat_setWidth, Nat.shiftLeft_eq]
  rw [Nat.mod_eq_of_lt (by omega : l.toNat < 2 ^ 24), Nat.mod_eq_of_lt (by omega : h.toNat < 2 ^ 24), Nat.mod_eq_of_lt (by omega)]

/-- A pair is an address exactly when its high half is a byte (R73). -/
theorem pairValue_le_iff (h l : Word) : (pairValue h l).toNat ≤ 0xFFFF ↔ h.toNat ≤ 0x00FF := by
  rw [pairValue_toNat]
  constructor
  · intro hh
    have := Nat.left_le_or (n := h.toNat * 256) (m := l.toNat)
    omega
  · intro hh
    have : (h.toNat * 256 ||| l.toNat) < 2 ^ 16 := Nat.or_lt_two_pow (by omega) l.isLt
    omega

theorem runFor_succ (n : Nat) (s : State) : State.runFor (n + 1) s =
    match step s with
    | .next t => State.runFor n t
    | .fault _ => s
    | .refused _ => s := rfl

/-- A stopped CORE takes no step (R75). -/
theorem step_of_stopped {s : State} (h : s.stopped = true) :
    step s = .fault .coreFaulted ∨ step s = .fault .coreHalted := by
  unfold step
  split
  · exact .inl rfl
  · split
    · exact .inr rfl
    · simp_all [State.stopped]

end Sys2Proof.Machine
end

