-- ==== Sys2Proof/Laws/Display.lean ====
section
/-!
SUPPORT. The Display Adapter's two shared operations in plain numbers: what a position shows (R142, R143), which addresses the window holds
(R141), and the word a pixel write changes (R145).
-/
namespace Sys2Proof.Machine

/-- A position whose raster offset lies in the window shows its word; any other shows nothing. -/
theorem pixelAt_eq_some_iff (unpack : PixelUnpack) (s : State) (x y : Nat) (p : Pixel) :
    pixelAt unpack s x y = some p ↔ y * 640 + x < 4093 ∧
      p = { x := x, y := y, color := unpack (s.mem.read (0xF000 + (y * 640 + x))), alpha := .fullyOpaque } := by
  unfold pixelAt
  split
  · rename_i h
    have h' : y * 640 + x < 4093 := h
    constructor
    · intro e
      cases e
      exact ⟨h', rfl⟩
    · rintro ⟨-, rfl⟩
      rfl
  · rename_i h
    have h' : ¬y * 640 + x < 4093 := h
    constructor
    · intro e
      cases e
    · intro e
      exact absurd e.1 h'

theorem inWindow_iff (a : Int) : inWindow a = true ↔ 0xF000 ≤ a ∧ a ≤ 0xFFFC := by
  unfold inWindow
  rw [decide_eq_true_eq]
  rfl

/-- A pixel write inside the window is one memory write; outside it is nothing. -/
theorem setPixelData_eq (s : State) (k : Nat) (hk : k < 4093) (v : Word) :
    s.setPixelData (0xF000 + k) v = { s with mem := s.mem.write (0xF000 + k) v } := by
  unfold State.setPixelData
  rw [if_pos ((inWindow_iff _).mpr (by omega))]
  have : ((0xF000 + k : Int) - (fbBase : Int)).toNat = k := by
    rw [show (fbBase : Int) = 0xF000 from rfl]
    omega
  rw [this]
  rfl

theorem setPixelData_outside (s : State) (a : Int) (h : ¬(0xF000 ≤ a ∧ a ≤ 0xFFFC)) (v : Word) :
    s.setPixelData a v = s := by
  unfold State.setPixelData
  rw [if_neg (fun e => h ((inWindow_iff a).mp e))]

end Sys2Proof.Machine
end

