-- ==== Sys2Proof/Laws/Exec.lean ====
section
/-!
SUPPORT. What `exec` answers, instruction by instruction, in the named updates of the state, and the inversion: every next state is one of
a few shapes. Later proofs cite these and never unfold a meaning.
-/
namespace Sys2Proof.Machine

@[simp] theorem exec_hlt (s : State) : exec (.hlt) s = .next s.halt := rfl
@[simp] theorem exec_imov (r1 : Reg) (v : BitVec 8) (s : State) : exec (.imov r1 v) s = .next (s.setReg r1 (zext16 v)).advance := rfl
@[simp] theorem exec_mov (r1 r2 : Reg) (s : State) : exec (.mov r1 r2) s = .next (s.setReg r1 (s.reg r2)).advance := rfl
@[simp] theorem exec_add (r1 r2 : Reg) (s : State) : exec (.add r1 r2) s = .next (s.setReg r1 (s.reg r1 + s.reg r2)).advance := rfl
@[simp] theorem exec_sub (r1 r2 : Reg) (s : State) : exec (.sub r1 r2) s = .next (s.setReg r1 (s.reg r1 - s.reg r2)).advance := rfl
@[simp] theorem exec_mul (r1 r2 : Reg) (s : State) : exec (.mul r1 r2) s = .next (s.setReg r1 (s.reg r1 * s.reg r2)).advance := rfl
@[simp] theorem exec_and (r1 r2 : Reg) (s : State) : exec (.and r1 r2) s = .next (s.setReg r1 (s.reg r1 &&& s.reg r2)).advance := rfl
@[simp] theorem exec_or (r1 r2 : Reg) (s : State) : exec (.or r1 r2) s = .next (s.setReg r1 (s.reg r1 ||| s.reg r2)).advance := rfl
@[simp] theorem exec_xor (r1 r2 : Reg) (s : State) : exec (.xor r1 r2) s = .next (s.setReg r1 (s.reg r1 ^^^ s.reg r2)).advance := rfl
@[simp] theorem exec_not (r1 r2 : Reg) (s : State) : exec (.not r1 r2) s = .next (s.setReg r1 (~~~ (s.reg r2))).advance := rfl
@[simp] theorem exec_push (r1 : Reg) (s : State) : exec (.push r1) s = .next ((s.memWrite s.sp (s.reg r1)).setSp (s.sp - 1)).advance := rfl
@[simp] theorem exec_pop (r1 : Reg) (s : State) : exec (.pop r1) s = .next ((s.setReg r1 (s.memRead s.popAddr)).setSp (s.sp + 1)).advance := rfl
@[simp] theorem exec_cmp (r1 r2 : Reg) (s : State) : exec (.cmp r1 r2) s = .next (s.setZfEqual (s.reg r1) (s.reg r2)).advance := rfl
@[simp] theorem exec_call (s : State) : exec (.call) s = .next s.advance := rfl
@[simp] theorem exec_ret (s : State) : exec (.ret) s = .next s.advance := rfl
@[simp] theorem exec_nop (s : State) : exec (.nop) s = .next s.advance := rfl
@[simp] theorem exec_unassigned22 (w : Word) (s : State) : exec (.unassigned22 w) s = .next (s.emit (.unrecognizedOpcode s.pc w)).advance := rfl
@[simp] theorem exec_unassigned23 (w : Word) (s : State) : exec (.unassigned23 w) s = .next (s.emit (.unrecognizedOpcode s.pc w)).advance := rfl
@[simp] theorem exec_unassigned24 (w : Word) (s : State) : exec (.unassigned24 w) s = .next (s.emit (.unrecognizedOpcode s.pc w)).advance := rfl
@[simp] theorem exec_unassigned25 (w : Word) (s : State) : exec (.unassigned25 w) s = .next (s.emit (.unrecognizedOpcode s.pc w)).advance := rfl
@[simp] theorem exec_unassigned26 (w : Word) (s : State) : exec (.unassigned26 w) s = .next (s.emit (.unrecognizedOpcode s.pc w)).advance := rfl
@[simp] theorem exec_unassigned27 (w : Word) (s : State) : exec (.unassigned27 w) s = .next (s.emit (.unrecognizedOpcode s.pc w)).advance := rfl
@[simp] theorem exec_unassigned28 (w : Word) (s : State) : exec (.unassigned28 w) s = .next (s.emit (.unrecognizedOpcode s.pc w)).advance := rfl
@[simp] theorem exec_unassigned29 (w : Word) (s : State) : exec (.unassigned29 w) s = .next (s.emit (.unrecognizedOpcode s.pc w)).advance := rfl
@[simp] theorem exec_unassigned30 (w : Word) (s : State) : exec (.unassigned30 w) s = .next (s.emit (.unrecognizedOpcode s.pc w)).advance := rfl
@[simp] theorem exec_unassigned31 (w : Word) (s : State) : exec (.unassigned31 w) s = .next (s.emit (.unrecognizedOpcode s.pc w)).advance := rfl

@[simp] theorem exec_div (r1 r2 : Reg) (s : State) : exec (.div r1 r2) s =
    if s.reg r2 = 0 then .next (s.raise .divideByZero none)
    else .next (s.setReg r1 (s.reg r1 / s.reg r2)).advance := rfl

@[simp] theorem exec_load (r1 r2 r3 : Reg) (s : State) : exec (.load r1 r2 r3) s =
    withPairAddr r2 r3 (fun a => .next (s.setReg r1 (s.memRead a)).advance) s := rfl

@[simp] theorem exec_store (r1 r2 r3 : Reg) (s : State) : exec (.store r1 r2 r3) s =
    withPairAddr r1 r2 (fun a => .next (s.memWrite a (s.reg r3)).advance) s := rfl

@[simp] theorem exec_jmp (r1 r2 : Reg) (s : State) : exec (.jmp r1 r2) s = takeJump r1 r2 s := rfl

@[simp] theorem exec_jz (r1 r2 : Reg) (s : State) : exec (.jz r1 r2) s =
    if s.zf = true then takeJump r1 r2 s else .next s.advance := by
  simp [exec, execJz, State.zfIs]

@[simp] theorem exec_jnz (r1 r2 : Reg) (s : State) : exec (.jnz r1 r2) s =
    if s.zf = false then takeJump r1 r2 s else .next s.advance := by
  simp [exec, execJnz, State.zfIs]

/-- The shapes of a next state: the continuing step after one update of a register, SP with a register or a memory word, a memory word, ZF, the
trace or nothing; a taken jump; a halt; a fault latched with nothing else changed. -/
inductive NextShape (i : Instr) (s : State) : State → Prop where
  | reg (r : Reg) (v : Word) (hd : destReg i = some r) (hp : ∀ q, i ≠ .pop q) : NextShape i s (s.setReg r v).advance
  | pop (r : Reg) (hi : i = .pop r) : NextShape i s ((s.setReg r (s.memRead s.popAddr)).setSp (s.sp + 1)).advance
  | push (r : Reg) (hi : i = .push r) : NextShape i s ((s.memWrite s.sp (s.reg r)).setSp (s.sp - 1)).advance
  | store (a v : Word) (hs : storedWord s i = some (a, v)) (hp : ∀ q, i ≠ .push q) : NextShape i s (s.memWrite a v).advance
  | zf (r1 r2 : Reg) (hi : i = .cmp r1 r2) : NextShape i s (s.setZfEqual (s.reg r1) (s.reg r2)).advance
  | emit (w : Word) (hi : 22 ≤ rowOfInstr i) : NextShape i s (s.emit (.unrecognizedOpcode s.pc w)).advance
  | next (hi : i = .call ∨ i = .ret ∨ i = .nop ∨ (∃ r1 r2, i = .jz r1 r2) ∨ ∃ r1 r2, i = .jnz r1 r2)
      (hj : takenJump s i = none) : NextShape i s s.advance
  | jump (h l : Reg) (hj : takenJump s i = some (h, l)) (hv : ¬0xFFFF < (s.pairAddr h l).toNat) :
      NextShape i s (s.jumpTo ((s.pairAddr h l).setWidth 16))
  | halt (hi : i = .hlt) : NextShape i s s.halt
  | divFault (r1 r2 : Reg) (hi : i = .div r1 r2) (hz : s.reg r2 = 0) : NextShape i s (s.raise .divideByZero none)
  | pairFault (h l : Reg) (hj : formedPair s i = some (h, l)) (hv : 0xFFFF < (s.pairAddr h l).toNat) :
      NextShape i s (s.raise .addressError (some (s.pairAddr h l)))

/-- Every next state an instruction answers has one of those shapes. -/
theorem exec_next {i : Instr} {s t : State} (h : exec i s = .next t) : NextShape i s t := by
  cases i <;>
    simp only [exec_hlt, exec_imov, exec_mov, exec_load, exec_store, exec_add, exec_sub, exec_mul, exec_div, exec_and, exec_or,
      exec_xor, exec_not, exec_jmp, exec_jz, exec_jnz, exec_push, exec_pop, exec_cmp, exec_call, exec_ret, exec_nop,
      exec_unassigned22, exec_unassigned23, exec_unassigned24, exec_unassigned25, exec_unassigned26, exec_unassigned27,
      exec_unassigned28, exec_unassigned29, exec_unassigned30, exec_unassigned31, takeJump_eq, withPairAddr_eq] at h <;>
    (repeat' split at h) <;> cases h <;>
    first
      | exact .reg _ _ rfl (by intro q; simp)
      | exact .pop _ rfl
      | exact .push _ rfl
      | exact .store _ _ (by simp_all [storedWord]) (by intro q; simp)
      | exact .zf _ _ rfl
      | exact .emit _ (by simp [rowOfInstr])
      | exact .next (by simp) (by simp_all [takenJump])
      | exact .jump _ _ (by simp_all [takenJump]) (by assumption)
      | exact .halt rfl
      | exact .divFault _ _ rfl (by assumption)
      | exact .pairFault _ _ (by simp_all [formedPair, takenJump]) (by assumption)

end Sys2Proof.Machine
end

