-- ==== Sys2Proof/Laws/PerInstr.lean ====
section
/-!
SUPPORT. The per-instruction statement: a well-formed instruction's word carries its own row's opcode in bits 15:11, under every injective opcode
map (R54, R59).
-/
namespace Sys2Proof.Laws.EncodeOpcode

/-- The opcode bits of the instruction's word are its row's opcode. -/
def Statement (i : Instr) : Prop :=
  ∀ m : OpcodeMap, m.wellFormed = true → i.wellFormed m = true → opcodeOf (encode m i) = codeOf m (rowOfInstr i)

theorem hlt : Statement (.hlt) := fun _ _ _ => opcodeOf_fields ..
theorem imov (r1 : Reg) (v : BitVec 8) : Statement (.imov r1 v) := fun _ _ _ => opcodeOf_r1 ..
theorem mov (r1 r2 : Reg) : Statement (.mov r1 r2) := fun _ _ _ => opcodeOf_r2 ..
theorem load (r1 r2 r3 : Reg) : Statement (.load r1 r2 r3) := fun _ _ _ => opcodeOf_r3 ..
theorem store (r1 r2 r3 : Reg) : Statement (.store r1 r2 r3) := fun _ _ _ => opcodeOf_r3 ..
theorem add (r1 r2 : Reg) : Statement (.add r1 r2) := fun _ _ _ => opcodeOf_r2 ..
theorem sub (r1 r2 : Reg) : Statement (.sub r1 r2) := fun _ _ _ => opcodeOf_r2 ..
theorem mul (r1 r2 : Reg) : Statement (.mul r1 r2) := fun _ _ _ => opcodeOf_r2 ..
theorem div (r1 r2 : Reg) : Statement (.div r1 r2) := fun _ _ _ => opcodeOf_r2 ..
theorem and (r1 r2 : Reg) : Statement (.and r1 r2) := fun _ _ _ => opcodeOf_r2 ..
theorem or (r1 r2 : Reg) : Statement (.or r1 r2) := fun _ _ _ => opcodeOf_r2 ..
theorem xor (r1 r2 : Reg) : Statement (.xor r1 r2) := fun _ _ _ => opcodeOf_r2 ..
theorem not (r1 r2 : Reg) : Statement (.not r1 r2) := fun _ _ _ => opcodeOf_r2 ..
theorem jmp (r1 r2 : Reg) : Statement (.jmp r1 r2) := fun _ _ _ => opcodeOf_r2 ..
theorem jz (r1 r2 : Reg) : Statement (.jz r1 r2) := fun _ _ _ => opcodeOf_r2 ..
theorem jnz (r1 r2 : Reg) : Statement (.jnz r1 r2) := fun _ _ _ => opcodeOf_r2 ..
theorem push (r1 : Reg) : Statement (.push r1) := fun _ _ _ => opcodeOf_r1 ..
theorem pop (r1 : Reg) : Statement (.pop r1) := fun _ _ _ => opcodeOf_r1 ..
theorem cmp (r1 r2 : Reg) : Statement (.cmp r1 r2) := fun _ _ _ => opcodeOf_r2 ..
theorem call : Statement (.call) := fun _ _ _ => opcodeOf_fields ..
theorem ret : Statement (.ret) := fun _ _ _ => opcodeOf_fields ..
theorem nop : Statement (.nop) := fun _ _ _ => opcodeOf_fields ..
theorem unassigned22 (w : Word) : Statement (.unassigned22 w) := fun _ _ h => (eq_of_beq h).symm
theorem unassigned23 (w : Word) : Statement (.unassigned23 w) := fun _ _ h => (eq_of_beq h).symm
theorem unassigned24 (w : Word) : Statement (.unassigned24 w) := fun _ _ h => (eq_of_beq h).symm
theorem unassigned25 (w : Word) : Statement (.unassigned25 w) := fun _ _ h => (eq_of_beq h).symm
theorem unassigned26 (w : Word) : Statement (.unassigned26 w) := fun _ _ h => (eq_of_beq h).symm
theorem unassigned27 (w : Word) : Statement (.unassigned27 w) := fun _ _ h => (eq_of_beq h).symm
theorem unassigned28 (w : Word) : Statement (.unassigned28 w) := fun _ _ h => (eq_of_beq h).symm
theorem unassigned29 (w : Word) : Statement (.unassigned29 w) := fun _ _ h => (eq_of_beq h).symm
theorem unassigned30 (w : Word) : Statement (.unassigned30 w) := fun _ _ h => (eq_of_beq h).symm
theorem unassigned31 (w : Word) : Statement (.unassigned31 w) := fun _ _ h => (eq_of_beq h).symm

end Sys2Proof.Laws.EncodeOpcode
end

