-- ==== Sys2Proof/Laws/Safety.lean ====
section
/-!
SUPPORT. The shared shapes of a step as the frames of Safety.lean: what the continuing step after one register write, the step that only moves PC,
and fault entry leave alone.
-/
namespace Sys2Proof.Machine

/-- A continuing step. -/
theorem pcNext_advance (s : State) : PcNext s s.advance := s.advance_pc_toNat

/-- A continuing step after one register write (R76). -/
theorem writesOnlyReg_setReg (s : State) (r : Reg) (v : Word) : WritesOnlyReg r s (s.setReg r v).advance :=
  ⟨State.advance_pc_toNat _, fun _ h => State.reg_setReg_other s v h, rfl, rfl, fun _ => rfl, ⟨rfl, rfl⟩, rfl, rfl⟩

/-- A continuing step that changes nothing (R131). -/
theorem writesOnlyPc_advance (s : State) : WritesOnlyPc s s.advance :=
  ⟨fun _ => rfl, rfl, rfl, fun _ => rfl, ⟨rfl, rfl⟩, rfl, rfl⟩

/-- A taken jump (R110). -/
theorem writesOnlyPc_jumpTo (s : State) (a : Word) : WritesOnlyPc s (s.jumpTo a) :=
  ⟨fun _ => rfl, rfl, rfl, fun _ => rfl, ⟨rfl, rfl⟩, rfl, rfl⟩

/-- A memory write changes its own word only (R45). -/
theorem sameMemBut_memWrite (s : State) (a v : Word) : SameMemBut a s (s.memWrite a v) :=
  fun _ h => State.memRead_memWrite_other s v h

/-- Fault entry (R161). -/
theorem faultEntry_raise (s : State) (c : FaultCause) (i : Option PairValue) : FaultEntry c i s (s.raise c i) :=
  ⟨rfl, rfl, rfl, fun _ => rfl, rfl, rfl, fun _ => rfl, rfl, rfl⟩

end Sys2Proof.Machine
end

