-- ==== Sys2Proof/Tests/Slice0.lean ====
section
/-!
SUPPORT. Tests of one step or less. Expected results are the vectors of spec/95_test_vectors.md (V and S numbers in the comments) or words put together by
hand from the encodings of spec/30_encoding.md; none comes from the model. After them, for each obligation with hypotheses, a witness that meets them.
-/
namespace Sys2Proof.Tests
open Sys2Proof.Machine

/-! ## Small states -/

/-- The reset state with given PC, registers and memory words. -/
def start (pc : Word) (regs : GprReset) (cells : List (Nat × Word)) : State :=
  { State.reset with pc := pc, regs := regs, mem := cells.foldl (fun m c => Memory.write m c.1 c.2) [] }

/-- The next state, if the outcome is one. -/
def next? (o : Host.Outcome State Fault Refusal) : Option State :=
  match o with
  | .next t => some t
  | .fault _ => none
  | .refused _ => none

/-- What `f` sees of the state after one step from `start`, the word `w` at PC. -/
def stepSees {A : Type} (f : State → A) (pc : Word) (w : Word) (regs : GprReset) (cells : List (Nat × Word)) : Option A :=
  (next? (step (start pc regs ((pc.toNat, w) :: cells)))).map f

/-- The same with ZF set. -/
def stepSeesZf {A : Type} (f : State → A) (pc : Word) (w : Word) (regs : GprReset) : Option A :=
  (next? (step { start pc regs [(pc.toNat, w)] with zf := true })).map f

/-- The same with another SP. -/
def stepSeesSp {A : Type} (f : State → A) (sp pc : Word) (w : Word) (regs : GprReset) (cells : List (Nat × Word)) : Option A :=
  (next? (step { start pc regs ((pc.toNat, w) :: cells) with sp := sp })).map f

/-- The same with another SP, under `increment_then_read`. -/
def stepSeesInc {A : Type} (f : State → A) (sp pc : Word) (w : Word) (regs : GprReset) (cells : List (Nat × Word)) : Option A :=
  (next? (step { start pc regs ((pc.toNat, w) :: cells) with
    sp := sp, params := { defaultParams with popOrder := .incrementThenRead } })).map f

/-- A CORE faulted by DIV at address 2. -/
def faulted : State := { State.reset with pc := 2, fault := some { cause := .divideByZero, address := 2, info := none } }

/-- A CORE halted at address 2, as V131 has it. -/
def haltedAt2 : State := { State.reset with regs := #v[0x11, 0, 0, 0, 0, 0, 0, 0], pc := 2, sp := 0xFFF9, zf := true, halted := true }

/-! ## Well-formedness: an ill-formed term for each check, refused -/

theorem test_default_map_wellFormed : defaultOpcodeMap.wellFormed = true := by decide
theorem test_repeated_code_refused : OpcodeMap.wellFormed (defaultOpcodeMap.set 21 0) = false := by decide
theorem test_unassigned_with_other_word_refused : (Instr.unassigned22 0xB800).wellFormed defaultOpcodeMap = false := by decide
theorem test_unassigned_with_own_word : (Instr.unassigned23 0xB800).wellFormed defaultOpcodeMap = true := by decide
theorem test_empty_image_refused : imageWellFormed [] = false := by decide
theorem test_oversize_image_refused (w : Word) : imageWellFormed (List.replicate 65537 w) = false := by
  rw [imageWellFormed, List.length_replicate]
  decide
theorem test_full_image_accepted (w : Word) : imageWellFormed (List.replicate 65536 w) = true := by
  rw [imageWellFormed, List.length_replicate]
  decide

/-! ## Decoding: every row's word, put together from the encodings of R51, R52 and R54 -/

theorem test_decode_hlt : decodeTableWord 16 0b00000_00000000000 = some (.hlt) := by decide
theorem test_decode_imov : decodeTableWord 16 0b00001_111_11111111 = some (.imov 7 255) := by decide
theorem test_decode_mov : decodeTableWord 16 0b00010_011_101_00000 = some (.mov 3 5) := by decide
theorem test_decode_load : decodeTableWord 16 0b00011_001_010_011_00 = some (.load 1 2 3) := by decide
theorem test_decode_store : decodeTableWord 16 0b00100_001_010_011_00 = some (.store 1 2 3) := by decide
theorem test_decode_add : decodeTableWord 16 0b00101_000_001_00000 = some (.add 0 1) := by decide
theorem test_decode_sub : decodeTableWord 16 0b00110_010_011_00000 = some (.sub 2 3) := by decide
theorem test_decode_mul : decodeTableWord 16 0b00111_100_101_00000 = some (.mul 4 5) := by decide
theorem test_decode_div : decodeTableWord 16 0b01000_110_111_00000 = some (.div 6 7) := by decide
theorem test_decode_and : decodeTableWord 16 0b01001_001_010_00000 = some (.and 1 2) := by decide
theorem test_decode_or : decodeTableWord 16 0b01010_001_010_00000 = some (.or 1 2) := by decide
theorem test_decode_xor : decodeTableWord 16 0b01011_001_010_00000 = some (.xor 1 2) := by decide
theorem test_decode_not : decodeTableWord 16 0b01100_001_010_00000 = some (.not 1 2) := by decide
theorem test_decode_jmp : decodeTableWord 16 0b01101_110_111_00000 = some (.jmp 6 7) := by decide
theorem test_decode_jz : decodeTableWord 16 0b01110_110_111_00000 = some (.jz 6 7) := by decide
theorem test_decode_jnz : decodeTableWord 16 0b01111_011_100_00000 = some (.jnz 3 4) := by decide
theorem test_decode_push : decodeTableWord 16 0b10000_011_00000000 = some (.push 3) := by decide
theorem test_decode_pop : decodeTableWord 16 0b10001_100_00000000 = some (.pop 4) := by decide
theorem test_decode_cmp : decodeTableWord 16 0b10010_000_001_00000 = some (.cmp 0 1) := by decide
theorem test_decode_call : decodeTableWord 16 0b10011_00000000000 = some (.call) := by decide
theorem test_decode_ret : decodeTableWord 16 0b10100_00000000000 = some (.ret) := by decide
theorem test_decode_nop : decodeTableWord 16 0b10101_00000000000 = some (.nop) := by decide
theorem test_decode_unassigned22 : decodeTableWord 16 0b10110_00000000000 = some (.unassigned22 0b10110_00000000000) := by decide
theorem test_decode_unassigned23 : decodeTableWord 16 0b10111_00000000000 = some (.unassigned23 0b10111_00000000000) := by decide
theorem test_decode_unassigned24 : decodeTableWord 16 0b11000_00000000000 = some (.unassigned24 0b11000_00000000000) := by decide
theorem test_decode_unassigned25 : decodeTableWord 16 0b11001_00000000000 = some (.unassigned25 0b11001_00000000000) := by decide
theorem test_decode_unassigned26 : decodeTableWord 16 0b11010_00000000000 = some (.unassigned26 0b11010_00000000000) := by decide
theorem test_decode_unassigned27 : decodeTableWord 16 0b11011_00000000000 = some (.unassigned27 0b11011_00000000000) := by decide
theorem test_decode_unassigned28 : decodeTableWord 16 0b11100_00000000000 = some (.unassigned28 0b11100_00000000000) := by decide
theorem test_decode_unassigned29 : decodeTableWord 16 0b11101_00000000000 = some (.unassigned29 0b11101_00000000000) := by decide
theorem test_decode_unassigned30 : decodeTableWord 16 0b11110_00000000000 = some (.unassigned30 0b11110_00000000000) := by decide
theorem test_decode_unassigned31 : decodeTableWord 16 0b11111_00000000000 = some (.unassigned31 0b11111_00000000000) := by decide

/-- Ignored bits set (V7, V101, V105): R3's bits 1:0, R2's 4:0, R1's 7:0, N's 10:0. -/
theorem test_decode_ignored_bits : [0x194F, 0x13BF, 0x83FF, 0x07FF, 0x9FFC].map (decode defaultOpcodeMap) =
    [.load 1 2 3, .mov 3 5, .push 3, .hlt, .call] := by decide
/-- An unassigned opcode keeps its whole word, the highest one too (V108). -/
theorem test_decode_all_ones : decode defaultOpcodeMap 0xFFFF = .unassigned31 0xFFFF := by decide
/-- A word of more than 16 bits is no instruction of this hardware (R58). -/
theorem test_decode_two_words_refused : decodeTableWord 32 0 = none := by decide
/-- The fields of 95_test_vectors.md 2.9: 0xA555. -/
theorem test_fields : (opcodeOf 0xA555, r1Of 0xA555, r2Of 0xA555, r3Of 0xA555, imm8Of 0xA555) = (20, 5, 2, 5, 0x55) := by decide
/-- The encodings of 95_test_vectors.md 2.9. -/
theorem test_encode : [Instr.imov 7 255, .mov 3 5, .load 1 2 3, .store 1 2 3, .div 6 7, .push 3, .pop 4, .cmp 0 1, .nop].map
    (encode defaultOpcodeMap) = [0x0FFF, 0x13A0, 0x194C, 0x214C, 0x46E0, 0x8300, 0x8C00, 0x9020, 0xA800] := by decide
/-- The word placed by `withFetchWord` is the one the next step runs: `IMOV r7, 255`. -/
theorem test_withFetchWord : (next? (step (State.reset.withFetchWord 16 0x0FFF))).map (fun t => (t.reg 7, t.pc)) = some (0x00FF, 1) := by
  decide
/-- Another `OPCODE_MAP`: NOP and HLT exchanged, so the word 0 is NOP. -/
theorem test_other_map : decode ((defaultOpcodeMap.set 0 21).set 21 0) 0 = .nop := by decide

/-! ## One step of each instruction -/

/-- V1. -/
theorem test_imov_zero_extends : stepSees (fun t => (t.reg 7, t.pc)) 0 0x0FFF #v[0, 0, 0, 0, 0, 0, 0, 0xABCD] [] =
    some (0x00FF, 1) := by decide
/-- V2. -/
theorem test_imov_zero : stepSees (fun t => (t.reg 0, t.zf)) 0 0x0800 #v[0xFFFF, 0, 0, 0, 0, 0, 0, 0] [] =
    some (0, false) := by decide
/-- V5. -/
theorem test_mov_copies : stepSees (fun t => (t.reg 3, t.reg 5, t.pc)) 0 0x13A0 #v[0, 0, 0, 0, 0, 0xBEEF, 0, 0] [] =
    some (0xBEEF, 0xBEEF, 1) := by decide
/-- V6. -/
theorem test_mov_self : stepSees (fun t => (t.regs, t.pc)) 0 0x1480 #v[0, 0, 0, 0, 0x1234, 0, 0, 0] [] =
    some (#v[0, 0, 0, 0, 0x1234, 0, 0, 0], 1) := by decide
/-- V9. -/
theorem test_load_destination_is_address_half : stepSees (fun t => (t.reg 1, t.pc)) 0 0x1928 #v[0, 0x0012, 0x0034, 0, 0, 0, 0, 0] [(0x1234, 0xCAFE)] =
    some (0xCAFE, 1) := by decide
/-- V13. -/
theorem test_load_above_0xFFFF_faults : stepSees (fun t => (t.reg 0, t.pc, t.halted, t.fault)) 0 0x1828 #v[0x5555, 0x0100, 0, 0, 0, 0, 0, 0] [] =
    some (0x5555, 0, false, some ⟨.addressError, 0, some 0x10000⟩) := by decide
/-- V19. -/
theorem test_store_port_word_is_memory : stepSees (fun t => (t.memRead 0xFFFD, t.memRead 0xFFFE, t.memRead 0xFFFF, t.pc)) 0 0x2028 #v[0x00FF, 0x00FE, 0x0041, 0, 0, 0, 0, 0] [] =
    some (0, 0x0041, 0, 1) := by decide
/-- V20. -/
theorem test_store_is_not_truncated : stepSees (fun t => (t.memRead 0, t.fault)) 0 0x2028 #v[0x0100, 0, 0x0041, 0, 0, 0, 0, 0] [] =
    some (0x2028, some ⟨.addressError, 0, some 0x10000⟩) := by decide
/-- V22. -/
theorem test_add_wraps : stepSees (fun t => (t.reg 0, t.zf, t.pc)) 0 0x2820 #v[0xFFFF, 1, 0, 0, 0, 0, 0, 0] [] =
    some (0, false, 1) := by decide
/-- V24. -/
theorem test_add_self : stepSees (fun t => t.reg 0) 0 0x2800 #v[0x8001, 0, 0, 0, 0, 0, 0, 0] [] =
    some 0x0002 := by decide
/-- V27. -/
theorem test_sub_wraps : stepSees (fun t => (t.reg 0, t.pc)) 0 0x3020 #v[0, 1, 0, 0, 0, 0, 0, 0] [] =
    some (0xFFFF, 1) := by decide
/-- V28. -/
theorem test_sub_order : stepSees (fun t => (t.reg 2, t.reg 3)) 0 0x3260 #v[0, 0, 3, 5, 0, 0, 0, 0] [] =
    some (0xFFFE, 5) := by decide
/-- V31. -/
theorem test_mul_drops_high_half : stepSees (fun t => (t.reg 0, t.zf)) 0 0x3820 #v[0x0100, 0x0100, 0, 0, 0, 0, 0, 0] [] =
    some (0, false) := by decide
/-- V37. -/
theorem test_mul_low_half : stepSees (fun t => (t.reg 0, t.pc)) 0 0x3820 #v[0x00FF, 0x0101, 0, 0, 0, 0, 0, 0] [] =
    some (0xFFFF, 1) := by decide
/-- V42. -/
theorem test_div_is_unsigned : stepSees (fun t => (t.reg 0, t.pc)) 0 0x4020 #v[0xFFFE, 2, 0, 0, 0, 0, 0, 0] [] =
    some (0x7FFF, 1) := by decide
/-- V38. -/
theorem test_div_by_zero_faults : stepSees (fun t => (t.reg 0, t.pc, t.halted, t.fault)) 0 0x4020 #v[7, 0, 0, 0, 0, 0, 0, 0] [] =
    some (7, 0, false, some ⟨.divideByZero, 0, none⟩) := by decide
/-- V50. -/
theorem test_and_bits : stepSees (fun t => (t.reg 1, t.reg 2, t.pc)) 0 0x4940 #v[0, 0xF0F0, 0x3C3C, 0, 0, 0, 0, 0] [] =
    some (0x3030, 0x3C3C, 1) := by decide
/-- V52. -/
theorem test_or_bits : stepSees (fun t => t.reg 1) 0 0x5140 #v[0, 0xF0F0, 0x3C3C, 0, 0, 0, 0, 0] [] =
    some 0xFCFC := by decide
/-- V53. -/
theorem test_xor_bits : stepSees (fun t => t.reg 1) 0 0x5940 #v[0, 0xF0F0, 0x3C3C, 0, 0, 0, 0, 0] [] =
    some 0xCCCC := by decide
/-- V54. -/
theorem test_xor_self_leaves_zf : stepSees (fun t => (t.reg 5, t.zf)) 0 0x5DA0 #v[0, 0, 0, 0, 0, 0xA5A5, 0, 0] [] =
    some (0, false) := by decide
/-- V55. -/
theorem test_not_ignores_destination : stepSees (fun t => (t.reg 1, t.reg 2)) 0 0x6140 #v[0, 0x5555, 0x00F0, 0, 0, 0, 0, 0] [] =
    some (0xFF0F, 0x00F0) := by decide
/-- V56. -/
theorem test_not_self : stepSees (fun t => t.reg 3) 0 0x6360 #v[0, 0, 0, 0, 0, 0, 0, 0] [] =
    some 0xFFFF := by decide
/-- V60. -/
theorem test_cmp_equal : stepSees (fun t => (t.zf, t.pc)) 0 0x9020 #v[5, 5, 0, 0, 0, 0, 0, 0] [] =
    some (true, 1) := by decide
/-- V62. -/
theorem test_cmp_overwrites_zf : stepSeesZf (fun t => t.zf) 0 0x9020 #v[0x0100, 0, 0, 0, 0, 0, 0, 0] =
    some false := by decide
/-- V70. -/
theorem test_jmp_lands_exactly : stepSees (fun t => (t.pc, t.zf)) 5 0x6EE0 #v[0, 0, 0, 0, 0, 0, 1, 0x20] [] =
    some (0x0120, false) := by decide
/-- V75. -/
theorem test_jmp_above_0xFFFF_faults : stepSees (fun t => (t.pc, t.fault)) 5 0x6EE0 #v[0, 0, 0, 0, 0, 0, 0x0100, 0] [] =
    some (5, some ⟨.addressError, 5, some 0x10000⟩) := by decide
/-- V79. -/
theorem test_jz_taken_bad_target : stepSeesZf (fun t => (t.pc, t.fault)) 3 0x76E0 #v[0, 0, 0, 0, 0, 0, 0x1234, 6] =
    some (3, some ⟨.addressError, 3, some 0x123406⟩) := by decide
/-- V78. -/
theorem test_jz_not_taken_ignores_target : stepSees (fun t => (t.pc, t.fault)) 3 0x76E0 #v[0, 0, 0, 0, 0, 0, 0x1234, 6] [] =
    some (4, none) := by decide
/-- V80. -/
theorem test_jnz_taken : stepSees (fun t => t.pc) 8 0x7B80 #v[0, 0, 0, 0, 5, 0, 0, 0] [] =
    some 5 := by decide
/-- V82. -/
theorem test_jnz_not_taken_ignores_target : stepSeesZf (fun t => (t.pc, t.fault)) 8 0x7B80 #v[0, 0, 0, 0x0200, 5, 0, 0, 0] =
    some (9, none) := by decide
/-- V90. -/
theorem test_push_stores_at_sp : stepSees (fun t => (t.memRead 0xFFFC, t.memRead 0xFFFB, t.sp, t.pc)) 0 0x8300 #v[0, 0, 0, 0x1234, 0, 0, 0, 0] [] =
    some (0x1234, 0, 0xFFFB, 1) := by decide
/-- V91. -/
theorem test_push_wraps : stepSeesSp (fun t => (t.memRead 0, t.sp, t.fault, t.pc)) 0 4 0x8300 #v[0, 0, 0, 0x1234, 0, 0, 0, 0] [] =
    some (0x1234, 0xFFFF, none, 5) := by decide
/-- V93. -/
theorem test_pop_reads_then_increments : stepSeesSp (fun t => (t.reg 4, t.sp, t.pc)) 0xFFFB 0 0x8C00 #v[0, 0, 0, 0, 0x9999, 0, 0, 0]
    [(0xFFFC, 0x1234)] = some (0, 0xFFFC, 1) := by decide
/-- V94. -/
theorem test_pop_increments_then_reads : stepSeesInc (fun t => (t.reg 4, t.sp)) 0xFFFB 0 0x8C00 #v[0, 0, 0, 0, 0x9999, 0, 0, 0]
    [(0xFFFC, 0x1234)] = some (0x1234, 0xFFFC) := by decide
/-- V95. -/
theorem test_pop_wraps : stepSeesSp (fun t => (t.reg 4, t.sp)) 0xFFFF 4 0x8C00 #v[0, 0, 0, 0, 0, 0, 0, 0] [(0xFFFF, 0xBEEF)] =
    some (0xBEEF, 0) := by decide
/-- V96. -/
theorem test_pop_wraps_before_reading : stepSeesInc (fun t => (t.reg 4, t.sp)) 0xFFFF 4 0x8C00 #v[0, 0, 0, 0, 7, 0, 0, 0] [(0xFFFF, 0xBEEF)] =
    some (0, 0) := by decide
/-- V100. -/
theorem test_hlt_keeps_pc : stepSees (fun t => (t.halted, t.pc, t.fault)) 3 0x0000 #v[0, 0, 0, 0, 0, 0, 0, 0] [] =
    some (true, 3, none) := by decide
/-- V101. -/
theorem test_hlt_ignores_operand_bits : stepSees (fun t => (t.halted, t.pc)) 3 0x07FF #v[0, 0, 0, 0, 0, 0, 0, 0] [] =
    some (true, 3) := by decide
/-- V104. -/
theorem test_nop_wraps_pc : stepSees (fun t => (t.pc, t.trace)) 0xFFFF 0xA800 #v[0, 0, 0, 0, 0, 0, 0, 0] [] =
    some (0, []) := by decide
/-- V105, with the reset SP. -/
theorem test_call_is_silent : stepSees (fun t => (t.pc, t.sp, t.trace, t.mem)) 7 0x9FFC #v[0, 0, 0, 0, 0, 0, 0, 0] [] =
    some (8, 0xFFFC, [], [(7, 0x9FFC)]) := by decide
/-- V106, with the reset SP. -/
theorem test_ret_is_silent : stepSees (fun t => (t.pc, t.sp, t.trace)) 8 0xA000 #v[0, 0, 0, 0, 0, 0, 0, 0] [] =
    some (9, 0xFFFC, []) := by decide
/-- V107. -/
theorem test_unassigned22_emits : stepSees (fun t => (t.pc, t.trace, t.halted, t.fault)) 6 0xB000 #v[0, 0, 0, 0, 0, 0, 0, 0] [] =
    some (7, [.unrecognizedOpcode 6 0xB000], false, none) := by decide
/-- The decode vectors after V109. -/
theorem test_unassigned23_emits : stepSees (fun t => (t.pc, t.trace, t.halted, t.fault)) 6 0xB800 #v[0, 0, 0, 0, 0, 0, 0, 0] [] =
    some (7, [.unrecognizedOpcode 6 0xB800], false, none) := by decide
/-- The decode vectors after V109. -/
theorem test_unassigned24_emits : stepSees (fun t => (t.pc, t.trace, t.halted, t.fault)) 6 0xC000 #v[0, 0, 0, 0, 0, 0, 0, 0] [] =
    some (7, [.unrecognizedOpcode 6 0xC000], false, none) := by decide
/-- The decode vectors after V109. -/
theorem test_unassigned25_emits : stepSees (fun t => (t.pc, t.trace, t.halted, t.fault)) 6 0xC800 #v[0, 0, 0, 0, 0, 0, 0, 0] [] =
    some (7, [.unrecognizedOpcode 6 0xC800], false, none) := by decide
/-- The decode vectors after V109. -/
theorem test_unassigned26_emits : stepSees (fun t => (t.pc, t.trace, t.halted, t.fault)) 6 0xD000 #v[0, 0, 0, 0, 0, 0, 0, 0] [] =
    some (7, [.unrecognizedOpcode 6 0xD000], false, none) := by decide
/-- The decode vectors after V109. -/
theorem test_unassigned27_emits : stepSees (fun t => (t.pc, t.trace, t.halted, t.fault)) 6 0xD800 #v[0, 0, 0, 0, 0, 0, 0, 0] [] =
    some (7, [.unrecognizedOpcode 6 0xD800], false, none) := by decide
/-- The decode vectors after V109. -/
theorem test_unassigned28_emits : stepSees (fun t => (t.pc, t.trace, t.halted, t.fault)) 6 0xE000 #v[0, 0, 0, 0, 0, 0, 0, 0] [] =
    some (7, [.unrecognizedOpcode 6 0xE000], false, none) := by decide
/-- The decode vectors after V109. -/
theorem test_unassigned29_emits : stepSees (fun t => (t.pc, t.trace, t.halted, t.fault)) 6 0xE800 #v[0, 0, 0, 0, 0, 0, 0, 0] [] =
    some (7, [.unrecognizedOpcode 6 0xE800], false, none) := by decide
/-- R135. -/
theorem test_unassigned30_emits : stepSees (fun t => (t.pc, t.trace, t.halted, t.fault)) 6 0xF000 #v[0, 0, 0, 0, 0, 0, 0, 0] [] =
    some (7, [.unrecognizedOpcode 6 0xF000], false, none) := by decide
/-- R135, as V109. -/
theorem test_unassigned31_emits : stepSees (fun t => (t.pc, t.trace, t.halted, t.fault)) 6 0xF800 #v[0, 0, 0, 0, 0, 0, 0, 0] [] =
    some (7, [.unrecognizedOpcode 6 0xF800], false, none) := by decide

/-! ## Stopped states, the start of a pass, the loader, the Display Adapter -/

/-- V133. -/
theorem test_halted_takes_no_step : step { State.reset with pc := 3, halted := true } = .fault .coreHalted := rfl
/-- V132. -/
theorem test_faulted_does_not_start : faulted.startPass = faulted ∧ step faulted = .fault .coreFaulted := ⟨rfl, rfl⟩
/-- V131. -/
theorem test_startPass : haltedAt2.startPass = { haltedAt2 with pc := 0, halted := false } := by decide
/-- V134. -/
theorem test_image_load : (State.reset.loadImage [0x08FF, 0x0000]).toOption.map (fun t => (t.memRead 0, t.memRead 1, t.pc)) =
    some (0x08FF, 0, 0) := by decide
/-- V135. -/
theorem test_image_bytes : imageOfBytes [0x05, 0x08, 0x03, 0x09, 0x20, 0x28, 0x00, 0x00] = .ok [0x0805, 0x0903, 0x2820, 0x0000] := by
  decide
/-- A file of an odd number of bytes (N11). -/
theorem test_image_odd : imageOfBytes [0x05, 0x08, 0x03] = .error .oddByteCount := by decide
/-- V110, V111: both ends of the window. -/
theorem test_setPixelData_window :
    ((State.reset.setPixelData 0xF000 0x07E0).memRead 0xF000, (State.reset.setPixelData 0xFFFC 0x001F).memRead 0xFFFC) =
      (0x07E0, 0x001F) := by decide
/-- V112, V113, V115, and an address below 0. -/
theorem test_setPixelData_outside :
    [0xFFFD, 0xEFFF, 0x1F000, -1].map (fun a => State.reset.setPixelData a 0xFFFF) = List.replicate 4 State.reset := by decide
/-- V120. -/
theorem test_rgb565 : (rgb565 0x1234, rgb565 0x07E0) = (⟨2, 17, 20⟩, ⟨0, 63, 0⟩) := by decide
/-- V117, V118, V119: the second row, the last word of row 5, and the first position not drawn. -/
theorem test_pixelAt : [(0, 1), (639, 5), (253, 6)].map
    (fun p => pixelAt rgb565 (start 0 gprResetZero [(0xF280, 0xFFFF), (0xFEFF, 0xF800)]) p.1 p.2) =
      [some ⟨0, 1, ⟨31, 63, 31⟩, .fullyOpaque⟩, some ⟨639, 5, ⟨31, 0, 0⟩, .fullyOpaque⟩, none] := by decide

/-! ## Witnesses: a concrete state and operands that meet the hypotheses of each obligation, at the ends of their ranges -/

theorem test_witness_FieldsOfEveryWord : (65535 : Nat) < 65536 := by decide

theorem test_witness_OpcodeAloneSelects : defaultOpcodeMap.wellFormed = true ∧
    opcodeOf 0x0000 = defaultOpcodeMap[(0 : Fin 22).val] ∧ opcodeOf 0xAFFF = defaultOpcodeMap[(21 : Fin 22).val] ∧
    opcodeOf 0xAFFF ∈ defaultOpcodeMap.toList ∧ opcodeOf 0xB000 ∉ defaultOpcodeMap.toList ∧ opcodeOf 0xA800 = opcodeOf 0xAFFF := by
  decide

theorem test_witness_DecodeOfEncode : defaultOpcodeMap.wellFormed = true ∧ (Instr.imov 7 255).wellFormed defaultOpcodeMap = true ∧
    (Instr.unassigned31 0xFFFF).wellFormed defaultOpcodeMap = true := by decide

theorem test_witness_EncodeOfDecode : defaultOpcodeMap.wellFormed = true ∧ rowOfInstr (decode defaultOpcodeMap 0xAFFF) < 22 ∧
    22 ≤ rowOfInstr (decode defaultOpcodeMap 0xB000) := by decide

theorem test_witness_IgnoredBitsHaveNoEffect :
    (0x13A0 &&& usedBits (decode defaultOpcodeMap 0x13A0) = 0x13BF &&& usedBits (decode defaultOpcodeMap 0x13A0) ∧
      rowOfInstr (decode defaultOpcodeMap 0x13A0) < 22 ∧
      (next? (exec (decode defaultOpcodeMap 0x13A0) State.reset)).isSome = true) ∧
    0xB000 &&& usedBits (decode defaultOpcodeMap 0xB000) = 0xB7FF &&& usedBits (decode defaultOpcodeMap 0xB000) ∧
      (next? (exec (decode defaultOpcodeMap 0xB000) State.reset)).isSome = true := by decide

theorem test_witness_EncodedWordLayout : Instr.ret ∈ [Instr.hlt, .nop, .call, .ret] ∧ Instr.pop 7 ∈ [Instr.push 7, .pop 7] ∧
    Instr.store 7 0 7 ∈ [Instr.load 7 0 7, .store 7 0 7] ∧ Instr.cmp 7 0 ∈ [Instr.mov 7 0, .add 7 0, .sub 7 0, .mul 7 0, .div 7 0,
      .and 7 0, .or 7 0, .xor 7 0, .not 7 0, .jmp 7 0, .jz 7 0, .jnz 7 0, .cmp 7 0] := by decide

theorem test_witness_StepRunsDecodedInstruction : State.reset.halted = false ∧ State.reset.fault = none := by decide

theorem test_witness_StoppedCoreTakesNoStep : faulted.fault ≠ none ∧ (haltedAt2.fault = none ∧ haltedAt2.halted = true) ∧
    faulted.stopped = true ∧ haltedAt2.stopped = true := by decide

theorem test_witness_EveryInstructionCompletes : haltedAt2.fault = none ∧ State.reset.halted = false ∧ State.reset.fault = none := by
  decide

/-- PUSH with SP one above PC, and STORE to the same place. -/
theorem test_witness_StoreSeenByNextFetch :
    (∃ t, exec (.push 0) { State.reset with sp := 1 } = .next t ∧
      storedWord { State.reset with sp := 1 } (.push 0) = some (t.pc, 0)) ∧
    ∃ t, exec (.store 0 1 1) (start 0 #v[0, 1, 0, 0, 0, 0, 0, 0] []) = .next t ∧
      storedWord (start 0 #v[0, 1, 0, 0, 0, 0, 0, 0] []) (.store 0 1 1) = some (t.pc, 1) :=
  ⟨⟨_, rfl, by decide⟩, ⟨_, rfl, by decide⟩⟩

/-- The word 0 at address 0 is HLT; then DIV by 0; JMP to 0xFFFF; and NOP at 0xFFFF. -/
theorem test_witness_PcAfterEveryOutcome :
    (∃ t, step State.reset = .next t ∧ t.halted = true) ∧
    (∃ t, step (start 0 gprResetZero [(0, 0x4020)]) = .next t ∧ t.fault ≠ none) ∧
    (∃ t, step (start 0 #v[0xFF, 0xFF, 0, 0, 0, 0, 0, 0] [(0, 0x6820)]) = .next t ∧ t.halted = false ∧ t.fault = none ∧
      takenJump (start 0 #v[0xFF, 0xFF, 0, 0, 0, 0, 0, 0] [(0, 0x6820)])
        (start 0 #v[0xFF, 0xFF, 0, 0, 0, 0, 0, 0] [(0, 0x6820)]).nextInstr = some (0, 1)) ∧
    (∃ t, step (start 0xFFFF gprResetZero [(0xFFFF, 0xA800)]) = .next t ∧ t.halted = false ∧ t.fault = none ∧
      takenJump (start 0xFFFF gprResetZero [(0xFFFF, 0xA800)]) (start 0xFFFF gprResetZero [(0xFFFF, 0xA800)]).nextInstr = none) ∧
    State.reset.fault = none :=
  ⟨⟨_, rfl, by decide⟩, ⟨_, rfl, by decide⟩, ⟨_, rfl, by decide⟩, ⟨_, rfl, by decide⟩, by decide⟩

/-- The largest legal pair, 0xFFFF, and the smallest illegal one, 0x10000: for LOAD, STORE and JMP alike. -/
def pairAtTop : State := start 0 #v[0x00FF, 0x00FF, 0, 0, 0, 0, 0, 0] []
def pairOverTop : State := start 0 #v[0x0100, 0, 0, 0, 0, 0, 0, 0] []

theorem test_witness_LoadReadsPairAddress : (0xFFFF : Word).toNat = (pairAtTop.pairAddr 0 1).toNat ∧
    0xFFFF < (pairOverTop.pairAddr 0 1).toNat := by decide

theorem test_witness_StoreWritesPairAddress : (0x0000 : Word).toNat = (State.reset.pairAddr 0 1).toNat ∧
    (0xFFFF : Word).toNat = (pairAtTop.pairAddr 0 1).toNat ∧ (pairOverTop.pairAddr 0 1).toNat = 0x10000 := by decide

theorem test_witness_JmpLandsOnTarget : (0xFFFF : Word).toNat = (pairAtTop.pairAddr 0 1).toNat ∧
    0xFFFF < (pairOverTop.pairAddr 0 1).toNat := by decide

theorem test_witness_JzTakenIffZfSet :
    ({ pairAtTop with zf := true }.zf = true ∧ (0xFFFF : Word).toNat = ({ pairAtTop with zf := true }.pairAddr 0 1).toNat) ∧
    ({ pairOverTop with zf := true }.zf = true ∧ 0xFFFF < ({ pairOverTop with zf := true }.pairAddr 0 1).toNat) ∧
    pairOverTop.zf = false := by decide

theorem test_witness_JnzTakenIffZfClear :
    (pairAtTop.zf = false ∧ (0xFFFF : Word).toNat = (pairAtTop.pairAddr 0 1).toNat) ∧
    (pairOverTop.zf = false ∧ 0xFFFF < (pairOverTop.pairAddr 0 1).toNat) ∧ { pairOverTop with zf := true }.zf = true := by decide

theorem test_witness_AndOrXorBitByBit : (0 : Nat) < 16 ∧ (15 : Nat) < 16 := by decide

theorem test_witness_DivFloorsOrFaults : pairAtTop.reg 1 ≠ 0 ∧ pairAtTop.reg 2 = 0 := by decide

theorem test_witness_PopReadsThenMovesUp : State.reset.params.popOrder = .readThenIncrement ∧
    { State.reset with params := { defaultParams with popOrder := .incrementThenRead } }.params.popOrder = .incrementThenRead := by
  decide

theorem test_witness_PushThenPop : State.reset.params.popOrder = .readThenIncrement ∧
    { State.reset with params := { defaultParams with popOrder := .incrementThenRead } }.params.popOrder = .incrementThenRead := by
  decide

theorem test_witness_NopCallRetOnlyAdvance : ∀ i ∈ [Instr.nop, .call, .ret], i ∈ [Instr.nop, .call, .ret] := by decide

theorem test_witness_UnassignedEmitsAndAdvances : 0xB000 ≤ (0xB000 : Word).toNat ∧ 0xB000 ≤ (0xFFFF : Word).toNat ∧
    Instr.unassigned31 0xFFFF ∈ [Instr.unassigned22 0xFFFF, .unassigned23 0xFFFF, .unassigned24 0xFFFF, .unassigned25 0xFFFF,
      .unassigned26 0xFFFF, .unassigned27 0xFFFF, .unassigned28 0xFFFF, .unassigned29 0xFFFF, .unassigned30 0xFFFF,
      .unassigned31 0xFFFF] := by decide

theorem test_witness_PairAddressIsUnmaskedOr :
    ((pairAtTop.reg 0).toNat < 256 ∧ (pairAtTop.reg 1).toNat < 256) ∧
    0xFFFF < (pairOverTop.pairAddr 0 1).toNat ∧ formedPair pairOverTop (.load 2 0 1) = some (0, 1) ∧
    formedPair pairOverTop (.store 0 1 2) = some (0, 1) ∧ formedPair pairOverTop (.jmp 0 1) = some (0, 1) ∧
    formedPair pairOverTop (.jnz 0 1) = some (0, 1) ∧ formedPair { pairOverTop with zf := true } (.jz 0 1) = some (0, 1) := by decide

theorem test_witness_MemoryReadAfterWrite : (65535 : Nat) ≠ 0 := by decide

theorem test_witness_EqualReadsEqualMemory : Memory.wf [(0, 1), (65535, 1)] = true ∧
    ∀ a < 65536, Memory.read [(0, 1), (65535, 1)] a = Memory.read [(0, 1), (65535, 1)] a := ⟨by decide, fun _ _ => rfl⟩

theorem test_witness_OnlyCmpWritesZf : (∃ t, exec (.cmp 0 1) pairAtTop = .next t) ∧
    (∃ t, exec (.add 0 1) pairAtTop = .next t) ∧ (∀ r1 r2, Instr.add 0 1 ≠ .cmp r1 r2) ∧
    ∀ r1 r2, Instr.add 0 1 ≠ .jz r1 r2 ∧ Instr.add 0 1 ≠ .jnz r1 r2 := ⟨⟨_, rfl⟩, ⟨_, rfl⟩, by simp, by simp⟩

theorem test_witness_OnlyPushPopMoveSp : ∃ t u v, exec (.push 0) { pairAtTop with sp := 0 } = .next t ∧
    exec (.pop 0) { pairAtTop with sp := 0xFFFF } = .next u ∧ exec .call pairAtTop = .next v := ⟨_, _, _, rfl, rfl, rfl⟩

theorem test_witness_RegisterFrameOfEveryInstruction : (∃ t, exec (.pop 0) pairAtTop = .next t) ∧ destReg (.pop 0) ≠ some 1 :=
  ⟨⟨_, rfl⟩, by decide⟩

theorem test_witness_MemoryFrameOfEveryInstruction :
    (∃ t, exec (.store 0 1 1) pairAtTop = .next t) ∧ storedWord pairAtTop (.store 0 1 1) = some (0xFFFF, 0x00FF) ∧
    (∃ t, exec (.store 0 1 1) pairOverTop = .next t) ∧ storedWord pairOverTop (.store 0 1 1) = none ∧
    (∃ t, exec (.push 0) pairAtTop = .next t) ∧ storedWord pairAtTop (.push 0) = some (0xFFFC, 0x00FF) :=
  ⟨⟨_, rfl⟩, by decide, ⟨_, rfl⟩, by decide, ⟨_, rfl⟩, by decide⟩

theorem test_witness_FaultEntryIsPrecise : pairOverTop.fault = none ∧ ∃ t, exec (.jmp 0 1) pairOverTop = .next t ∧
    t.fault = some { cause := .addressError, address := 0, info := some 0x10000 } := ⟨by decide, _, rfl, by decide⟩

theorem test_witness_FaultExactlyWhen : pairOverTop.fault = none ∧ pairOverTop.reg 1 = 0 ∧
    formedPair pairOverTop (.jmp 0 1) = some (0, 1) ∧ 0xFFFF < (pairOverTop.pairAddr 0 1).toNat := by decide

/-- A session whose pass has ended in a fault; a pixel write and a reset are allowed there. -/
def faultedSession : Session := { core := faulted, phase := .ended, frames := [], quit := false }

theorem test_witness_FaultIsStickyUntilReset : faultedSession.core.fault = some { cause := .divideByZero, address := 2, info := none } ∧
    (∃ s', faultedSession.host rgb565 (.setPixelData 0xF000 1) = some s') ∧ (∀ gpr, HostEvent.setPixelData 0xF000 1 ≠ .reset gpr) ∧
    ∃ s', faultedSession.host rgb565 (.reset gprResetZero) = some s' := ⟨by decide, ⟨_, rfl⟩, by simp, ⟨_, rfl⟩⟩

/-- Two states that differ in HALTED, FAULT and the trace only. -/
theorem test_witness_LatchesAndTraceUnreadable :
    SameReadable State.reset { State.reset with halted := true, fault := faulted.fault, trace := [.unrecognizedOpcode 0 0xB000] } ∧
    (∃ t, exec .nop State.reset = .next t) ∧
    ∃ t, exec .nop { State.reset with halted := true, fault := faulted.fault, trace := [.unrecognizedOpcode 0 0xB000] } = .next t :=
  ⟨⟨rfl, rfl, rfl, rfl, rfl, rfl⟩, ⟨_, rfl⟩, ⟨_, rfl⟩⟩

theorem test_witness_ResetMeetsInvariants : defaultParams.opcodeMap.wellFormed = true := by decide

/-- A step of each kind from a state that meets the invariant: HLT, a fault, a store. -/
theorem test_witness_StepKeepsInv : (State.reset.Inv ∧ ∃ t, step State.reset = .next t) ∧
    ((start 0 gprResetZero [(0, 0x4020)]).Inv ∧ ∃ t, step (start 0 gprResetZero [(0, 0x4020)]) = .next t) ∧
    (start 0 gprResetZero [(0, 0x8300)]).Inv ∧ ∃ t, step (start 0 gprResetZero [(0, 0x8300)]) = .next t :=
  ⟨⟨by unfold State.Inv; decide, _, rfl⟩, ⟨by unfold State.Inv; decide, _, rfl⟩, by unfold State.Inv; decide, _, rfl⟩

theorem test_witness_OnlyHltSetsHalted : State.reset.fault = none ∧ haltedAt2.fault = none ∧ (∃ t, exec .hlt State.reset = .next t) ∧
    (∃ t, exec .nop State.reset = .next t) ∧ Instr.nop ≠ .hlt := ⟨by decide, by decide, ⟨_, rfl⟩, ⟨_, rfl⟩, by decide⟩

theorem test_witness_OnlyUnassignedEmit : (∃ t, exec .nop State.reset = .next t) ∧ rowOfInstr .nop < 22 ∧
    (∃ t, exec (.unassigned22 0xB000) State.reset = .next t) ∧ 22 ≤ rowOfInstr (.unassigned22 0xB000) :=
  ⟨⟨_, rfl⟩, by decide, ⟨_, rfl⟩, by decide⟩

/-- A session after reset, one with an image (`NOP`) loaded, and one running it. -/
def freshSession : Session := Session.start gprResetZero defaultParams
def loadedSession : Session := { freshSession with core := { State.reset with mem := [(0, 0xA800)] }, phase := .loaded }
def runningSession : Session := { loadedSession with phase := .running }
def endedSession : Session := { loadedSession with core := { loadedSession.core with pc := 1, halted := true }, phase := .ended }

/-- Every kind of move, from a session that meets the invariant. -/
theorem test_witness_EveryMoveKeepsSessionInv :
    (freshSession.Inv ∧ (∃ s', freshSession.host rgb565 (.imageLoad [0xA800]) = some s') ∧
      ∃ s', freshSession.host rgb565 (.setPixelData 0xFFFC 1) = some s') ∧
    (loadedSession.Inv ∧ ∃ s', loadedSession.host rgb565 .startPass = some s') ∧
    (runningSession.Inv ∧ (∃ s', runningSession.coreStep = some s') ∧ ∃ s', runningSession.host rgb565 .quit = some s') ∧
    endedSession.Inv ∧ (∃ s', endedSession.host rgb565 .renderPass = some s') ∧
      ∃ s', endedSession.host rgb565 (.reset gprResetZero) = some s' :=
  ⟨⟨by unfold Session.Inv State.Inv; decide, ⟨_, rfl⟩, ⟨_, rfl⟩⟩, ⟨by unfold Session.Inv State.Inv; decide, ⟨_, rfl⟩⟩,
    ⟨by unfold Session.Inv State.Inv; decide, ⟨_, rfl⟩, ⟨_, rfl⟩⟩, by unfold Session.Inv State.Inv; decide, ⟨_, rfl⟩, ⟨_, rfl⟩⟩

/-- The last position drawn, (252, 6), and the first one not drawn in that row. -/
theorem test_witness_RenderPassEmits : (252 < 640 ∧ 6 < 480 ∧ 6 * 640 + 252 < 4093) ∧ ¬6 * 640 + 253 < 4093 := by decide

/-- Two memories that differ just outside the window, at both of its ends. -/
theorem test_witness_RenderPassReadsWindowOnly : ∀ a, 0xF000 ≤ a → a ≤ 0xFFFC →
    State.reset.mem.read a = (start 0 gprResetZero [(0xEFFF, 1), (0xFFFD, 1)]).mem.read a := by
  intro a h1 h2
  have e : (start 0 gprResetZero [(0xEFFF, 1), (0xFFFD, 1)]).mem = [(0xEFFF, 1), (0xFFFD, 1)] := by decide
  rw [e, Memory.read_cell, Memory.read_cell, if_neg (by omega), if_neg (by omega)]
  rfl

theorem test_witness_SetPixelDataWritesWindowOnly :
    ¬((0xF000 : Int) ≤ 0xEFFF ∧ (0xEFFF : Int) ≤ 0xFFFC) ∧ ¬((0xF000 : Int) ≤ 0xFFFD ∧ (0xFFFD : Int) ≤ 0xFFFC) ∧
    ((0 : Nat) < 4093 ∧ (0xF000 : Int) = 0xF000 + (0 : Nat)) ∧ (4092 : Nat) < 4093 ∧ (0xFFFC : Int) = 0xF000 + (4092 : Nat) := by decide

theorem test_witness_PushDrawsOnLastRow : (0 ≤ 252 ∧ State.reset.sp.toNat = 0xFFFC - 0) ∧
    252 ≤ 252 ∧ { State.reset with sp := 0xFF00 }.sp.toNat = 0xFFFC - 252 := by decide

theorem test_witness_StartOfPass : State.reset.fault = none ∧ faulted.fault ≠ none ∧ loadedSession.quit = false ∧
    endedSession.quit = false := by decide

theorem test_witness_PassStopsAtFirstHaltOrFault : State.reset.stopped = false ∧ (State.reset.runFor 1).stopped = true := by decide

/-- The smallest and the largest image, the empty one, and one word too many. -/
theorem test_witness_ImageLoadRoundTrip (w : Word) : (1 ≤ [w].length ∧ [w].length ≤ 65536) ∧
    (1 ≤ (List.replicate 65536 w).length ∧ (List.replicate 65536 w).length ≤ 65536) ∧ ([] : List Word) = [] ∧
    65536 < (List.replicate 65537 w).length := by
  rw [List.length_replicate, List.length_replicate]
  exact ⟨⟨by simp, by simp⟩, by omega, rfl, by omega⟩

theorem test_witness_ImageFileIsLittleEndian : ([0x05] : List Byte).length % 2 = 1 ∧ ([0x05, 0x08] : List Byte).length % 2 = 0 ∧
    (0 < ([0x0805] : List Word).length ∧ 2 * 0 + 1 < ([0x05, 0x08] : List Byte).length) := by decide

theorem test_witness_HostAndCoreNeverInterleave : runningSession.phase = .running ∧ HostEvent.renderPass ≠ .quit ∧
    endedSession.phase ≠ .running ∧ (∃ s', endedSession.host rgb565 .renderPass = some s') ∧
    { endedSession with quit := true }.quit = true := ⟨by decide, by decide, by decide, ⟨_, rfl⟩, by decide⟩

end Sys2Proof.Tests
end

section
/-!
SUPPORT. Every instruction answers a next state (R9): a fault is latched in one (R161), and no arm of `exec` stops or refuses.
-/
namespace Sys2Proof.Machine

/-- An address above 0xFFFF answers the fault's state, so only the continuation at a legal address is left to ask (R73, R163). -/
theorem withPairAddr_completes {h l : Reg} {k : Word → Host.Outcome State Fault Refusal} {s : State}
    (hk : ∀ a, ∃ t, k a = .next t) : ∃ t, withPairAddr h l k s = .next t := by
  rw [withPairAddr_eq]
  split
  · exact ⟨_, rfl⟩
  · exact hk _

theorem takeJump_completes (r1 r2 : Reg) (s : State) : ∃ t, takeJump r1 r2 s = .next t :=
  withPairAddr_completes fun _ => ⟨_, rfl⟩

/-- The instructions that branch are named: a zero divisor, a register pair, a jump taken or not. Each other one has a single next state. -/
theorem exec_completes (i : Instr) (s : State) : ∃ t, exec i s = .next t := by
  cases i with
  | load r1 r2 r3 => exact withPairAddr_completes fun _ => ⟨_, rfl⟩
  | store r1 r2 r3 => exact withPairAddr_completes fun _ => ⟨_, rfl⟩
  | div r1 r2 =>
    rw [exec_div]
    split
    · exact ⟨_, rfl⟩
    · exact ⟨_, rfl⟩
  | jmp r1 r2 => exact takeJump_completes r1 r2 s
  | jz r1 r2 =>
    rw [exec_jz]
    split
    · exact takeJump_completes r1 r2 s
    · exact ⟨_, rfl⟩
  | jnz r1 r2 =>
    rw [exec_jnz]
    split
    · exact takeJump_completes r1 r2 s
    · exact ⟨_, rfl⟩
  | _ => exact ⟨_, rfl⟩

/-- A CORE that is not stopped completes its step (R70). -/
theorem step_completes {s : State} (h : s.stopped = false) : ∃ t, step s = .next t := by
  rw [step_of_running h]
  exact exec_completes s.nextInstr s

/-- Settles O10: each instruction completes, by cases on it, and a running CORE's step is the decoded instruction's. -/
theorem everyInstructionCompletes : Obligations.EveryInstructionCompletes :=
  ⟨exec_completes, fun s hhalted hfault => step_completes ((stopped_eq_false_iff s).mpr ⟨hhalted, hfault⟩)⟩

end Sys2Proof.Machine
end

section
/-!
SUPPORT. The state elements one by one (R10, R14 to R18): what an instruction leaves of each, from the shapes of a next state.
-/
namespace Sys2Proof.Machine

/-- R10, R76: of the general registers only the destination is written. -/
theorem exec_keeps_reg {i : Instr} {s t : State} {q : Reg} (h : exec i s = .next t) (hq : destReg i ≠ some q) :
    t.reg q = s.reg q := by
  cases exec_next h with
  | reg r v hd hp => exact State.reg_setReg_other s v fun e => hq (e ▸ hd)
  | pop r hi =>
    subst hi
    exact State.reg_setReg_other s _ fun e => hq (congrArg some e.symm)
  | _ => rfl

/-- R15: only the two stack instructions move SP. -/
theorem exec_keeps_sp {i : Instr} {s t : State} (h : exec i s = .next t) (hpush : ∀ r, i ≠ .push r)
    (hpop : ∀ r, i ≠ .pop r) : t.sp = s.sp := by
  cases exec_next h with
  | push r hi => exact absurd hi (hpush r)
  | pop r hi => exact absurd hi (hpop r)
  | _ => rfl

/-- R16: only CMP writes ZF. -/
theorem exec_keeps_zf {i : Instr} {s t : State} (h : exec i s = .next t) (hi : ∀ r1 r2, i ≠ .cmp r1 r2) :
    t.zf = s.zf := by
  cases exec_next h with
  | zf r1 r2 hcmp => exact absurd hcmp (hi r1 r2)
  | _ => rfl

/-- R17: only HLT writes HALTED. -/
theorem exec_keeps_halted {i : Instr} {s t : State} (h : exec i s = .next t) (hi : i ≠ .hlt) :
    t.halted = s.halted := by
  cases exec_next h with
  | halt hhlt => exact absurd hhlt hi
  | _ => rfl

/-- R6: no instruction writes the parameters. -/
theorem exec_keeps_params {i : Instr} {s t : State} (h : exec i s = .next t) : t.params = s.params := by
  cases exec_next h <;> rfl

/-- R30: the two writing shapes write at a 16-bit address, so memory stays in canonical form. -/
theorem exec_keeps_mem_wf {i : Instr} {s t : State} (h : exec i s = .next t) (hm : s.mem.wf = true) :
    t.mem.wf = true := by
  cases exec_next h with
  | push r hi => exact Memory.wf_write _ hm s.sp.isLt
  | store a v hs hp => exact Memory.wf_write _ hm a.isLt
  | _ => exact hm

theorem State.faultWf_of_fault_none {s : State} (h : s.fault = none) : s.faultWf = true := by
  simp only [State.faultWf, h]

/-- R161: a record of the two causes' form, latched by a CORE that is not halted, is one the CORE can hold. -/
theorem State.faultWf_raise {s : State} {c : FaultCause} {v : Option PairValue} (hh : s.halted = false)
    (hr : FaultRecord.wf { cause := c, address := s.pc, info := v } = true) : (s.raise c v).faultWf = true := by
  simp [State.faultWf, hh, hr]

/-- R18, R161: from a CORE that is not stopped, only the two fault shapes latch a record. -/
theorem exec_faultWf {i : Instr} {s t : State} (h : exec i s = .next t) (hs : s.stopped = false) :
    t.faultWf = true := by
  obtain ⟨hhalted, hfault⟩ := (stopped_eq_false_iff s).mp hs
  cases exec_next h with
  | divFault r1 r2 hi hz => exact State.faultWf_raise hhalted rfl
  | pairFault hi lo hj hv => exact State.faultWf_raise hhalted (decide_eq_true hv)
  | _ => exact State.faultWf_of_fault_none hfault

/-! ## PC (R14) -/

theorem takenJump_eq_none_of_destReg {i : Instr} {r : Reg} (s : State) (h : destReg i = some r) :
    takenJump s i = none := by
  cases i with
  | jmp _ _ | jz _ _ | jnz _ _ => cases h
  | _ => rfl

theorem takenJump_eq_none_of_storedWord {i : Instr} {s : State} {p : Word × Word} (h : storedWord s i = some p) :
    takenJump s i = none := by
  cases i with
  | jmp _ _ | jz _ _ | jnz _ _ => cases h
  | _ => rfl

theorem takenJump_eq_none_of_unassigned {i : Instr} (s : State) (h : 22 ≤ rowOfInstr i) : takenJump s i = none := by
  cases i with
  | jmp _ _ | jz _ _ | jnz _ _ => simp [rowOfInstr] at h
  | _ => rfl

/-- R14's outcomes: on to the next word with no jump taken, a taken jump to the pair's address, a halt, a fault. -/
inductive PcOutcome (i : Instr) (s t : State) : Prop where
  | advance (hj : takenJump s i = none) (hpc : t.pc = s.pc + 1) (hl : SameLatches s t)
  | jump (h l : Reg) (hj : takenJump s i = some (h, l)) (hpc : t.pc.toNat = (s.pairAddr h l).toNat) (hl : SameLatches s t)
  | halt (ht : t = s.halt)
  | fault (c : FaultCause) (v : Option PairValue) (ht : t = s.raise c v)

theorem exec_pcOutcome {i : Instr} {s t : State} (h : exec i s = .next t) : PcOutcome i s t := by
  cases exec_next h with
  | reg r v hd hp => exact .advance (takenJump_eq_none_of_destReg s hd) rfl ⟨rfl, rfl⟩
  | store a v hs hp => exact .advance (takenJump_eq_none_of_storedWord hs) rfl ⟨rfl, rfl⟩
  | emit w hi => exact .advance (takenJump_eq_none_of_unassigned s hi) rfl ⟨rfl, rfl⟩
  | next hi hj => exact .advance hj rfl ⟨rfl, rfl⟩
  | pop r hi | push r hi | zf r1 r2 hi => exact .advance (hi ▸ rfl) rfl ⟨rfl, rfl⟩
  | jump hi lo hj hv =>
    have hlt : (s.pairAddr hi lo).toNat < 2 ^ 16 := Nat.lt_succ_of_le (Nat.le_of_not_lt hv)
    exact .jump hi lo hj ((BitVec.toNat_setWidth ..).trans (Nat.mod_eq_of_lt hlt)) ⟨rfl, rfl⟩
  | halt hi => exact .halt rfl
  | divFault r1 r2 hi hz => exact .fault _ _ rfl
  | pairFault hi lo hj hv => exact .fault _ _ rfl

/-- R14: a step starts with both latches clear, so a latch set after it names a halt or a fault, and those keep PC. -/
theorem step_pc {s t : State} (h : step s = .next t) :
    (t.halted = true → t.pc = s.pc) ∧ (t.fault ≠ none → t.pc = s.pc) ∧
    (t.halted = false → t.fault = none →
      (∀ h l, takenJump s s.nextInstr = some (h, l) → t.pc.toNat = (s.pairAddr h l).toNat) ∧
      (takenJump s s.nextInstr = none → t.pc.toNat = (s.pc.toNat + 1) % 65536)) := by
  obtain ⟨hrun, hexec⟩ := step_next h
  obtain ⟨hhalted, hfault⟩ := (stopped_eq_false_iff s).mp hrun
  cases exec_pcOutcome hexec with
  | advance hj hpc hl =>
    obtain ⟨hh, hf⟩ := hl
    simp [hj, hpc, hh, hf, hhalted, hfault, BitVec.toNat_add]
  | jump hi lo hj hpc hl =>
    obtain ⟨hh, hf⟩ := hl
    simp +contextual [hj, hpc, hh, hf, hhalted, hfault]
  | halt ht => simp [ht]
  | fault c v ht => simp [ht]

theorem State.startPass_pc {s : State} (h : s.fault = none) : s.startPass.pc = 0x0000 := by
  simp [State.startPass, h, pcStart]

theorem State.startPass_halted {s : State} (h : s.fault = none) : s.startPass.halted = false := by
  simp [State.startPass, h]

/-! ## Reset (R23, R180) -/

theorem resetWith_inv (gpr : GprReset) {p : Params} (hp : p.opcodeMap.wellFormed = true) :
    (State.resetWith gpr p).Inv :=
  ⟨rfl, rfl, hp⟩

theorem sessionStart_inv (gpr : GprReset) {p : Params} (hp : p.opcodeMap.wellFormed = true) :
    (Session.start gpr p).Inv :=
  ⟨resetWith_inv gpr hp, by simp [Session.start, State.stopped], fun _ => ⟨rfl, rfl, rfl, rfl, rfl⟩⟩

theorem defaultOpcodeMap_wellFormed : defaultOpcodeMap.wellFormed = true := by decide

end Sys2Proof.Machine
end

section
/-!
SUPPORT. What an instruction reads (R16 to R18, R135): two states that agree on the registers, PC, SP, memory and parameters go through every
instruction in step, whatever their latches and traces hold, and whatever their ZF holds unless the instruction is JZ or JNZ.
-/
namespace Sys2Proof.Machine

/-- Agreement on what every instruction may read. -/
structure SameOperands (s s' : State) : Prop where
  regs   : s'.regs = s.regs
  pc     : s'.pc = s.pc
  sp     : s'.sp = s.sp
  mem    : s'.mem = s.mem
  params : s'.params = s.params

/-- `t` and `t'`, reached from `s` and `s'`, agree on what every instruction may read, and on each other field on which `s` and `s'` do. -/
structure InStep (s s' t t' : State) : Prop extends SameOperands t t' where
  zf     : s'.zf = s.zf → t'.zf = t.zf
  halted : s'.halted = s.halted → t'.halted = t.halted
  fault  : s'.fault = s.fault → t'.fault = t.fault
  trace  : s'.trace = s.trace → t'.trace = t.trace

theorem SameOperands.reg {s s' : State} (h : SameOperands s s') (q : Reg) : s'.reg q = s.reg q :=
  State.reg_congr h.regs q

theorem SameOperands.pairAddr {s s' : State} (h : SameOperands s s') (hi lo : Reg) :
    s'.pairAddr hi lo = s.pairAddr hi lo := by
  simp only [State.pairAddr, h.reg]

theorem SameOperands.popWord {s s' : State} (h : SameOperands s s') :
    s'.memRead s'.popAddr = s.memRead s.popAddr := by
  simp only [State.memRead, State.popAddr, h.mem, h.sp, h.params]

/-! ## The updates keep two states in step -/

section
variable {s s' t t' : State}

theorem SameOperands.inStep (h : SameOperands s s') : InStep s s' s s' :=
  { h with zf := id, halted := id, fault := id, trace := id }

theorem InStep.setReg (h : InStep s s' t t') (r : Reg) (v : Word) : InStep s s' (t.setReg r v) (t'.setReg r v) :=
  { h with regs := by simp only [State.setReg_regs, h.regs] }

theorem InStep.memWrite (h : InStep s s' t t') (a v : Word) : InStep s s' (t.memWrite a v) (t'.memWrite a v) :=
  { h with mem := by simp only [State.memWrite_mem, h.mem] }

theorem InStep.setSp (h : InStep s s' t t') (v : Word) : InStep s s' (t.setSp v) (t'.setSp v) :=
  { h with sp := rfl }

theorem InStep.advance (h : InStep s s' t t') : InStep s s' t.advance t'.advance :=
  { h with pc := by simp only [State.advance_pc, h.pc] }

theorem InStep.jumpTo (h : InStep s s' t t') (a : Word) : InStep s s' (t.jumpTo a) (t'.jumpTo a) :=
  { h with pc := rfl }

theorem InStep.halt (h : InStep s s' t t') : InStep s s' t.halt t'.halt :=
  { h with halted := fun _ => rfl }

theorem InStep.raise (h : InStep s s' t t') (c : FaultCause) (v : Option PairValue) :
    InStep s s' (t.raise c v) (t'.raise c v) :=
  { h with fault := fun _ => by simp only [State.raise_fault, h.pc] }

theorem InStep.emit (h : InStep s s' t t') (e : Event) : InStep s s' (t.emit e) (t'.emit e) :=
  { h with trace := fun hs => congrArg (· ++ [e]) (h.trace hs) }

theorem InStep.setZfEqual (h : InStep s s' t t') (a b : Word) : InStep s s' (t.setZfEqual a b) (t'.setZfEqual a b) :=
  { h with zf := fun _ => rfl }

/-! ## The instructions keep two states in step -/

/-- The next states of two outcomes are in step. -/
def NextInStep (s s' : State) (o o' : Host.Outcome State Fault Refusal) : Prop :=
  ∀ t t', o = .next t → o' = .next t' → InStep s s' t t'

theorem InStep.nextInStep (h : InStep s s' t t') : NextInStep s s' (.next t) (.next t') := by
  rintro _ _ ⟨⟩ ⟨⟩
  exact h

theorem setReg_nextInStep (hs : SameOperands s s') (r : Reg) {v v' : Word} (hv : v' = v) :
    NextInStep s s' (continueWith (s.setReg r v)) (continueWith (s'.setReg r v')) := by
  subst hv
  exact (hs.inStep.setReg r v').advance.nextInStep

/-- The pair's address is formed from registers only, so both states fault or both go on at one address (R73). -/
theorem withPairAddr_nextInStep (hs : SameOperands s s') (hi lo : Reg)
    {k k' : Word → Host.Outcome State Fault Refusal} (hk : ∀ a, NextInStep s s' (k a) (k' a)) :
    NextInStep s s' (withPairAddr hi lo k s) (withPairAddr hi lo k' s') := by
  rw [withPairAddr_eq, withPairAddr_eq, hs.pairAddr]
  split
  · exact (hs.inStep.raise _ _).nextInStep
  · exact hk _

theorem takeJump_nextInStep (hs : SameOperands s s') (r1 r2 : Reg) :
    NextInStep s s' (takeJump r1 r2 s) (takeJump r1 r2 s') :=
  withPairAddr_nextInStep hs r1 r2 fun a => (hs.inStep.jumpTo a).nextInStep

theorem unrecognized_nextInStep (hs : SameOperands s s') (w : Word) :
    NextInStep s s' (unrecognized w s) (unrecognized w s') := by
  rw [unrecognized_eq, unrecognized_eq, hs.pc]
  exact (hs.inStep.emit _).advance.nextInStep

/-- Every instruction keeps states with the same operands in step; JZ and JNZ, which test ZF, need it to agree too (R16). -/
theorem exec_nextInStep (hs : SameOperands s s') (i : Instr)
    (hz : s'.zf = s.zf ∨ ∀ r1 r2, i ≠ .jz r1 r2 ∧ i ≠ .jnz r1 r2) : NextInStep s s' (exec i s) (exec i s') := by
  cases i with
  | hlt => exact hs.inStep.halt.nextInStep
  | call | ret | nop => exact hs.inStep.advance.nextInStep
  | imov r1 _ | mov r1 _ | add r1 _ | sub r1 _ | mul r1 _ | and r1 _ | or r1 _ | xor r1 _ | not r1 _ =>
    exact setReg_nextInStep hs r1 (by simp only [hs.reg])
  | div r1 r2 =>
    rw [exec_div, exec_div, hs.reg, hs.reg]
    split
    · exact (hs.inStep.raise _ _).nextInStep
    · exact setReg_nextInStep hs r1 rfl
  | load r1 r2 r3 =>
    exact withPairAddr_nextInStep hs r2 r3 fun a => setReg_nextInStep hs r1 (by simp only [State.memRead, hs.mem])
  | store r1 r2 r3 =>
    rw [exec_store, exec_store, hs.reg]
    exact withPairAddr_nextInStep hs r1 r2 fun a => (hs.inStep.memWrite a _).advance.nextInStep
  | jmp r1 r2 => exact takeJump_nextInStep hs r1 r2
  | jz r1 r2 =>
    rw [exec_jz, exec_jz, hz.resolve_right fun hi => (hi r1 r2).1 rfl]
    split
    · exact takeJump_nextInStep hs r1 r2
    · exact hs.inStep.advance.nextInStep
  | jnz r1 r2 =>
    rw [exec_jnz, exec_jnz, hz.resolve_right fun hi => (hi r1 r2).2 rfl]
    split
    · exact takeJump_nextInStep hs r1 r2
    · exact hs.inStep.advance.nextInStep
  | push r1 =>
    rw [exec_push, exec_push, hs.reg, hs.sp]
    exact ((hs.inStep.memWrite _ _).setSp _).advance.nextInStep
  | pop r1 =>
    rw [exec_pop, exec_pop, hs.sp, hs.popWord]
    exact ((hs.inStep.setReg r1 _).setSp _).advance.nextInStep
  | cmp r1 r2 =>
    rw [exec_cmp, exec_cmp, hs.reg, hs.reg]
    exact (hs.inStep.setZfEqual _ _).advance.nextInStep
  | unassigned22 w | unassigned23 w | unassigned24 w | unassigned25 w | unassigned26 w | unassigned27 w
  | unassigned28 w | unassigned29 w | unassigned30 w | unassigned31 w => exact unrecognized_nextInStep hs w

/-- In step from states that agree on the latches and the trace: only ZF can differ. -/
theorem InStep.eq_withZf (h : InStep s s' t t') (hhalted : s'.halted = s.halted) (hfault : s'.fault = s.fault)
    (htrace : s'.trace = s.trace) : t' = { t with zf := t'.zf } := by
  rw [← h.regs, ← h.pc, ← h.sp, ← h.halted hhalted, ← h.fault hfault, ← h.mem, ← h.trace htrace, ← h.params]

/-- R16: what an instruction that does not test ZF does to the rest of the state, it does whatever ZF holds. -/
theorem exec_withZf {i : Instr} (z : Bool) (hi : ∀ r1 r2, i ≠ .jz r1 r2 ∧ i ≠ .jnz r1 r2)
    (h : exec i s = .next t) : ∃ z', exec i { s with zf := z } = .next { t with zf := z' } := by
  obtain ⟨t', ht'⟩ := exec_completes i { s with zf := z }
  have hs : SameOperands s { s with zf := z } := ⟨rfl, rfl, rfl, rfl, rfl⟩
  have hstep := exec_nextInStep hs i (.inr hi) t t' h ht'
  exact ⟨t'.zf, ht'.trans (congrArg _ (hstep.eq_withZf rfl rfl rfl))⟩

/-- R17, R18, R135: the latches and the trace have no reader. -/
theorem exec_sameReadable {i : Instr} (hs : SameReadable s s') (h : exec i s = .next t) (h' : exec i s' = .next t') :
    SameReadable t t' := by
  obtain ⟨hregs, hpc, hsp, hzf, hmem, hparams⟩ := hs
  have hstep := exec_nextInStep ⟨hregs, hpc, hsp, hmem, hparams⟩ i (.inl hzf) t t' h h'
  exact ⟨hstep.regs, hstep.pc, hstep.sp, hstep.zf hzf, hstep.mem, hstep.params⟩

end

end Sys2Proof.Machine
end

section
/-!
SUPPORT. The statements about the state elements, reset and the CORE's invariant, each from the lemmas above.
-/
namespace Sys2Proof.Machine

/-- Settles O47: memory and the map are kept by every instruction, and a step starts from a CORE that holds no record. -/
theorem stepKeepsInv : Obligations.StepKeepsInv := by
  rintro s t ⟨hmem, -, hmap⟩ h
  obtain ⟨hrun, hexec⟩ := step_next h
  refine ⟨exec_keeps_mem_wf hexec hmem, exec_faultWf hexec hrun, ?_⟩
  rw [exec_keeps_params hexec]
  exact hmap

/-- Settles O12, by the four outcomes of a step for PC. -/
theorem pcAfterEveryOutcome : Obligations.PcAfterEveryOutcome :=
  ⟨fun _ _ => step_pc, fun _ => State.startPass_pc⟩

/-- Settles O37: CMP is the only writer by the shapes of a next state, and JZ and JNZ are the only readers because every other instruction keeps
states that differ in ZF in step. -/
theorem onlyCmpWritesZf : Obligations.OnlyCmpWritesZf := by
  refine ⟨fun _ _ => rfl, State.startPass_zf, fun i s t h => ⟨?_, exec_keeps_zf h⟩, fun i s t z hi h => exec_withZf z hi h⟩
  rintro r1 r2 rfl
  cases h
  rfl

/-- Settles O38: PUSH and POP by their one next state, every other instruction by the shapes. -/
theorem onlyPushPopMoveSp : Obligations.OnlyPushPopMoveSp := by
  refine ⟨fun _ _ => rfl, State.startPass_sp, fun i s t h => ?_⟩
  cases i with
  | push r1 | pop r1 =>
    cases h
    rfl
  | _ => exact exec_keeps_sp h nofun nofun

/-- Settles O39, by the shapes of a next state. -/
theorem registerFrameOfEveryInstruction : Obligations.RegisterFrameOfEveryInstruction :=
  fun _ _ _ h _ => exec_keeps_reg h

/-- Settles O44: states with the same operands and the same ZF stay in step. -/
theorem latchesAndTraceUnreadable : Obligations.LatchesAndTraceUnreadable :=
  fun _ _ _ _ _ => exec_sameReadable

/-- Settles O48: HLT by its one next state, every other instruction by the shapes. -/
theorem onlyHltSetsHalted : Obligations.OnlyHltSetsHalted := by
  refine ⟨fun _ _ => rfl, fun _ => State.startPass_halted, fun i s t h => ⟨?_, exec_keeps_halted h⟩⟩
  rintro rfl
  cases h
  rfl

/-- Settles O45: each field of `State.resetWith`, and a memory that lists no word. -/
theorem resetValues : Obligations.ResetValues :=
  fun _ _ _ _ => ⟨rfl, rfl, rfl, rfl, rfl, rfl, rfl⟩

/-- Settles O46: an injective map is all the invariants ask of a reset, and the default map is injective. -/
theorem resetMeetsInvariants : Obligations.ResetMeetsInvariants :=
  ⟨fun gpr _ hp => ⟨resetWith_inv gpr hp, sessionStart_inv gpr hp⟩, rfl, resetWith_inv _ defaultOpcodeMap_wellFormed⟩

end Sys2Proof.Machine
end

section
/-!
SUPPORT. Memory as the instructions use it (R33, R36, R41, R76): the words a canonical memory lists are the words it reads (log 1), and an
instruction that stores a word is a write of that word and a continuing step.
-/
namespace Sys2Proof.Machine

/-! ## The canonical form (R30) -/

/-- A canonical memory lists its first word no higher than a memory that reads alike does: the word it lists there is not 0x0000. -/
theorem Memory.head_le_of_reads {lo lo' a b : Nat} {v u : Word} {rest rest' : Memory}
    (h : Memory.wfFrom lo ((a, v) :: rest) = true) (h' : Memory.wfFrom lo' ((b, u) :: rest') = true)
    (hr : ∀ c < 65536, Memory.read ((a, v) :: rest) c = Memory.read ((b, u) :: rest') c) : b ≤ a := by
  obtain ⟨-, ha, hv, -⟩ := (Memory.wfFrom_cell ..).mp h
  obtain ⟨-, hb⟩ := (Memory.wfFrom_cell ..).mp h'
  by_contra hlt
  have hzero : Memory.read ((b, u) :: rest') a = 0 :=
    Memory.read_of_lt ((Memory.wfFrom_cell ..).mpr ⟨le_rfl, hb⟩) (Nat.lt_of_not_le hlt)
  rw [← hr a ha, Memory.read_cell, if_pos rfl] at hzero
  exact hv hzero

/-- A memory that lists a word does not read like the empty one. -/
theorem Memory.not_reads_nil {lo b : Nat} {u : Word} {rest : Memory} (h : Memory.wfFrom lo ((b, u) :: rest) = true) :
    ¬∀ c < 65536, Memory.read ((b, u) :: rest) c = 0 := by
  obtain ⟨-, hb, hu, -⟩ := (Memory.wfFrom_cell ..).mp h
  intro hr
  have hzero := hr b hb
  rw [Memory.read_cell, if_pos rfl] at hzero
  exact hu hzero

theorem Memory.eq_of_reads {m m' : Memory} {lo lo' : Nat} (h : Memory.wfFrom lo m = true)
    (h' : Memory.wfFrom lo' m' = true) (hr : ∀ c < 65536, Memory.read m c = Memory.read m' c) : m = m' := by
  induction m generalizing m' lo lo' with
  | nil =>
    cases m' with
    | nil => rfl
    | cons c' rest' => exact absurd (fun c hc => (hr c hc).symm) (Memory.not_reads_nil h')
  | cons c rest ih =>
    obtain ⟨a, v⟩ := c
    cases m' with
    | nil => exact absurd hr (Memory.not_reads_nil h)
    | cons c' rest' =>
      obtain ⟨b, u⟩ := c'
      obtain rfl : a = b :=
        le_antisymm (Memory.head_le_of_reads h' h fun c hc => (hr c hc).symm) (Memory.head_le_of_reads h h' hr)
      obtain ⟨-, ha, -, hrest⟩ := (Memory.wfFrom_cell ..).mp h
      obtain ⟨-, -, -, hrest'⟩ := (Memory.wfFrom_cell ..).mp h'
      obtain rfl : v = u := by simpa [Memory.read_cell] using hr a ha
      rw [ih hrest hrest' fun c hc => ?_]
      by_cases hca : c = a
      · rw [Memory.read_of_lt hrest (by omega), Memory.read_of_lt hrest' (by omega)]
      · simpa [Memory.read_cell, hca] using hr c hc

/-! ## The instructions that store a word (R83, R121) -/

/-- STORE to a legal pair and PUSH write their word, may move SP, and continue. -/
theorem exec_of_storedWord {i : Instr} {s : State} {a v : Word} (h : storedWord s i = some (a, v)) :
    ∃ sp, exec i s = .next ((s.memWrite a v).setSp sp).advance := by
  cases i with
  | push r1 =>
    cases h
    exact ⟨s.sp - 1, rfl⟩
  | store r1 r2 r3 =>
    obtain ⟨hv, ⟨⟩⟩ := Option.ite_none_left_eq_some.mp h
    refine ⟨s.sp, ?_⟩
    rw [exec_store, withPairAddr_eq, if_neg hv]
    rfl
  | _ => cases h

/-- R33, R76: an instruction that stores no word leaves memory as it was. -/
theorem exec_keeps_mem {i : Instr} {s t : State} (h : exec i s = .next t) (hs : storedWord s i = none) :
    t.mem = s.mem := by
  cases exec_next h with
  | push r hi => simp [hi, storedWord] at hs
  | store a v hv hp => simp [hv] at hs
  | _ => rfl

/-- R33, R76: an instruction that stores a word writes it at its address and nowhere else, and stops nothing. -/
theorem exec_storing {i : Instr} {s t : State} {a v : Word} (h : exec i s = .next t)
    (hs : storedWord s i = some (a, v)) : t.memRead a = v ∧ SameMemBut a s t ∧ t.stopped = s.stopped := by
  obtain ⟨sp, ht⟩ := exec_of_storedWord hs
  cases h.symm.trans ht
  exact ⟨State.memRead_memWrite_same s a v, sameMemBut_memWrite s a v, rfl⟩

/-- Settles O35, by the law of a read after a write. -/
theorem memoryReadAfterWrite : Obligations.MemoryReadAfterWrite :=
  fun m a _ v => ⟨Memory.read_write_same m a v, Memory.read_write_other m v⟩

/-- Settles O36, by induction on the first memory: the first cells agree, and so do the rests. -/
theorem equalReadsEqualMemory : Obligations.EqualReadsEqualMemory :=
  fun _ _ => Memory.eq_of_reads

/-- Settles O40: an instruction that stores nothing keeps memory, one that stores is a write and a continuing step. -/
theorem memoryFrameOfEveryInstruction : Obligations.MemoryFrameOfEveryInstruction := by
  refine fun i s t h => ⟨fun hs a => ?_, fun a v hs => ?_⟩
  · simp only [State.memRead, exec_keeps_mem h hs]
  · obtain ⟨hv, hframe, -⟩ := exec_storing h hs
    exact ⟨hv, hframe⟩

/-- Settles O11: the CORE is still running after the store, and its fetch reads the stored word. -/
theorem storeSeenByNextFetch : Obligations.StoreSeenByNextFetch := by
  intro i s t v hhalted hfault h hs
  obtain ⟨hv, -, hstopped⟩ := exec_storing h hs
  rw [step_of_running (hstopped.trans ((stopped_eq_false_iff s).mpr ⟨hhalted, hfault⟩)), State.nextInstr, State.fetch, hv,
    exec_keeps_params h]

end Sys2Proof.Machine
end

section
/-!
SUPPORT. The words of an image file (R31, D21), two bytes at a time.
-/
namespace Sys2Proof.Machine

theorem wordOfBytes_toNat (lo hi : Byte) : (wordOfBytes lo hi).toNat = lo.toNat + 256 * hi.toNat := by
  rw [wordOfBytes, toNat_append]
  omega

theorem imageOfBytes_of_ok {rest : List Byte} {ws : List Word} (lo hi : Byte) (h : imageOfBytes rest = .ok ws) :
    imageOfBytes (lo :: hi :: rest) = .ok (wordOfBytes lo hi :: ws) := by
  simp [imageOfBytes, h]

theorem imageOfBytes_of_error {rest : List Byte} {e : LoadError} (lo hi : Byte) (h : imageOfBytes rest = .error e) :
    imageOfBytes (lo :: hi :: rest) = .error e := by
  simp [imageOfBytes, h]

theorem imageOfBytes_of_odd : ∀ bytes : List Byte, bytes.length % 2 = 1 → imageOfBytes bytes = .error .oddByteCount
  | [], h => by simp at h
  | [_], _ => rfl
  | lo :: hi :: rest, h =>
    imageOfBytes_of_error lo hi (imageOfBytes_of_odd rest ((Nat.add_mod_right rest.length 2).symm.trans h))

/-- The file's bytes are the words' bytes, the low one first. -/
def LittleEndian (bytes : List Byte) (ws : List Word) : Prop :=
  2 * ws.length = bytes.length ∧ ∀ k (_ : k < ws.length) (_ : 2 * k < bytes.length) (_ : 2 * k + 1 < bytes.length),
    (ws[k]).toNat = (bytes[2 * k]).toNat + 256 * (bytes[2 * k + 1]).toNat

theorem LittleEndian.cons {bytes : List Byte} {ws : List Word} (lo hi : Byte) (h : LittleEndian bytes ws) :
    LittleEndian (lo :: hi :: bytes) (wordOfBytes lo hi :: ws) := by
  obtain ⟨hlen, hword⟩ := h
  refine ⟨by simp only [List.length_cons]; omega, fun k hk h0 h1 => ?_⟩
  cases k with
  | zero => exact wordOfBytes_toNat lo hi
  | succ j =>
    simp only [List.length_cons] at hk h0 h1
    exact hword j (by omega) (by omega) (by omega)

theorem imageOfBytes_of_even : ∀ bytes : List Byte, bytes.length % 2 = 0 →
    ∃ ws, imageOfBytes bytes = .ok ws ∧ LittleEndian bytes ws
  | [], _ => ⟨[], rfl, rfl, nofun⟩
  | [_], h => by simp at h
  | lo :: hi :: rest, h => by
    obtain ⟨ws, hok, hws⟩ := imageOfBytes_of_even rest ((Nat.add_mod_right rest.length 2).symm.trans h)
    exact ⟨_, imageOfBytes_of_ok lo hi hok, hws.cons lo hi⟩

/-- Settles O59, by recursion two bytes at a time. -/
theorem imageFileIsLittleEndian : Obligations.ImageFileIsLittleEndian :=
  fun bytes => ⟨imageOfBytes_of_odd bytes, imageOfBytes_of_even bytes⟩

end Sys2Proof.Machine
end

section
/-!
SUPPORT. The moves of a session (R36, R186): what an allowed event of the host and a step of the running pass do, and that each keeps the
session's invariant.
-/
namespace Sys2Proof.Machine

/-! ## What a move does -/

/-- The host's allowed moves, each with its condition of R186's table. -/
inductive HostMove (unpack : PixelUnpack) (s : Session) : HostEvent → Session → Prop where
  | reset (gpr : GprReset) (hidle : s.phase ≠ .running) :
      HostMove unpack s (.reset gpr) { s with core := State.resetWith gpr s.core.params, phase := .afterReset }
  | imageLoad (image : List Word) (t : State) (hphase : s.phase = .afterReset) (hload : s.core.loadImage image = .ok t) :
      HostMove unpack s (.imageLoad image) { s with core := t, phase := .loaded }
  | startPass (hstart : s.mayStart = true) :
      HostMove unpack s .startPass { s with core := s.core.startPass, phase := .running }
  | renderPass (hphase : s.phase = .ended) :
      HostMove unpack s .renderPass { s with frames := s.frames ++ [Machine.renderPass unpack s.core] }
  | setPixelData (address : Int) (value : Word) (hidle : s.phase ≠ .running) :
      HostMove unpack s (.setPixelData address value) { s with core := s.core.setPixelData address value }
  | quit : HostMove unpack s .quit { s with quit := true }

theorem Session.idle_iff (s : Session) : s.idle = true ↔ s.phase ≠ .running := decide_eq_true_iff

/-- A start of a pass is allowed only to an idle host, and only with FAULT clear (R74). -/
theorem Session.mayStart_imp {s : Session} (h : s.mayStart = true) : s.phase ≠ .running ∧ s.core.fault = none := by
  simp only [Session.mayStart, Bool.and_eq_true, Bool.or_eq_true, decide_eq_true_eq, Option.isNone_iff_eq_none] at h
  obtain ⟨hphase, hfault⟩ := h
  refine ⟨fun hrun => ?_, hfault⟩
  simp [hrun] at hphase

/-- Nothing follows a quit (R186). -/
theorem Session.host_of_quit {unpack : PixelUnpack} {s : Session} (h : s.quit = true) (e : HostEvent) :
    s.host unpack e = none := if_pos h

theorem Session.host_some {unpack : PixelUnpack} {e : HostEvent} {s s' : Session} (h : s.host unpack e = some s') :
    HostMove unpack s e s' := by
  unfold Session.host at h
  split at h
  · cases h
  cases e with
  | reset gpr =>
    obtain ⟨hidle, ⟨⟩⟩ := Option.ite_none_right_eq_some.mp h
    exact .reset gpr (s.idle_iff.mp hidle)
  | imageLoad image =>
    obtain ⟨hphase, hload⟩ := Option.ite_none_right_eq_some.mp h
    split at hload
    · next t ht =>
      cases hload
      exact .imageLoad image t hphase ht
    · cases hload
  | startPass =>
    obtain ⟨hstart, ⟨⟩⟩ := Option.ite_none_right_eq_some.mp h
    exact .startPass hstart
  | renderPass =>
    obtain ⟨hphase, ⟨⟩⟩ := Option.ite_none_right_eq_some.mp h
    exact .renderPass hphase
  | setPixelData address value =>
    obtain ⟨hidle, ⟨⟩⟩ := Option.ite_none_right_eq_some.mp h
    exact .setPixelData address value (s.idle_iff.mp hidle)
  | quit =>
    cases h
    exact .quit

/-- While a pass runs the host can only quit (R36, R146). -/
theorem HostMove.eq_quit_of_running {unpack : PixelUnpack} {e : HostEvent} {s s' : Session} (h : HostMove unpack s e s')
    (hrun : s.phase = .running) : e = .quit := by
  cases h with
  | reset gpr hidle | setPixelData address value hidle => exact absurd hrun hidle
  | startPass hstart => exact absurd hrun (Session.mayStart_imp hstart).1
  | imageLoad image t hphase hload | renderPass hphase => cases hphase.symm.trans hrun
  | quit => rfl

/-- The CORE moves only while a pass runs (R36). -/
theorem Session.coreStep_of_idle {s : Session} (h : s.phase ≠ .running) : s.coreStep = none := if_neg h

theorem Session.coreStep_some {s s' : Session} (h : s.coreStep = some s') :
    s.phase = .running ∧ ∃ t, step s.core = .next t ∧ s' = { s with core := t, phase := if t.stopped then .ended else .running } := by
  obtain ⟨hrun, hstep⟩ := Option.ite_none_right_eq_some.mp h
  split at hstep
  · next t ht =>
    cases hstep
    exact ⟨hrun, t, ht, rfl⟩
  · cases hstep
  · cases hstep

/-! ## The CORE's invariant through the host's events -/

/-- An image load changes memory only, and keeps its canonical form (R184). -/
theorem State.loadImage_ok {s t : State} {image : List Word} (h : s.loadImage image = .ok t) (hm : s.mem.wf = true) :
    ∃ m, m.wf = true ∧ t = { s with mem := m } := by
  unfold State.loadImage at h
  split at h
  · cases h
  · split at h
    · next hlen =>
      cases h
      obtain ⟨-, hmax⟩ := of_decide_eq_true hlen
      exact ⟨_, Memory.wf_writeList hm (by omega), rfl⟩
    · cases h

/-- A pixel write changes memory only, and keeps its canonical form: the window ends below 65536 (R145). -/
theorem State.setPixelData_mem_only {s : State} (address : Int) (value : Word) (hm : s.mem.wf = true) :
    ∃ m, m.wf = true ∧ s.setPixelData address value = { s with mem := m } := by
  by_cases hw : 0xF000 ≤ address ∧ address ≤ 0xFFFC
  · obtain ⟨k, rfl⟩ : ∃ k : Nat, address = 0xF000 + k := ⟨(address - 0xF000).toNat, by omega⟩
    have hk : k < 4093 := by omega
    exact ⟨_, Memory.wf_write value hm (by omega), setPixelData_eq s k hk value⟩
  · exact ⟨s.mem, hm, setPixelData_outside s address hw value⟩

theorem State.Inv.withMem {s : State} {m : Memory} (h : s.Inv) (hm : m.wf = true) : State.Inv { s with mem := m } := by
  obtain ⟨-, hfault, hmap⟩ := h
  exact ⟨hm, hfault, hmap⟩

/-- R74: an allowed start of a pass finds no record to keep. -/
theorem State.Inv.startPass {s : State} (h : s.Inv) (hfault : s.fault = none) : s.startPass.Inv := by
  obtain ⟨hmem, -, hmap⟩ := h
  refine ⟨?_, State.faultWf_of_fault_none ?_, ?_⟩
  · rwa [State.startPass_mem]
  · rwa [State.startPass_fault]
  · rwa [State.startPass_params]

theorem State.startPass_stopped {s : State} (h : s.fault = none) : s.startPass.stopped = false :=
  (stopped_eq_false_iff _).mpr ⟨State.startPass_halted h, (State.startPass_fault s).trans h⟩

/-! ## The session's invariant -/

/-- Once a pass has started the invariant asks only that the phase tells whether the CORE is stopped (R75). -/
theorem Session.inv_of_started {s : Session} (hcore : s.core.Inv)
    (hphase : s.phase = if s.core.stopped then .ended else .running) : s.Inv := by
  refine ⟨hcore, ?_, ?_⟩ <;> rw [hphase] <;> cases s.core.stopped <;> simp

/-- The session's invariant asks nothing of memory but its canonical form (R30). -/
theorem Session.Inv.withMem {s : Session} {m : Memory} (h : s.Inv) (hm : m.wf = true) :
    Session.Inv { s with core := { s.core with mem := m } } := by
  obtain ⟨hcore, hended, hfresh⟩ := h
  exact ⟨hcore.withMem hm, hended, hfresh⟩

theorem Session.Inv.loaded {s : Session} (h : s.Inv) (hphase : s.phase = .afterReset) :
    Session.Inv { s with phase := .loaded } := by
  obtain ⟨hcore, hended, hfresh⟩ := h
  refine ⟨hcore, ?_, fun _ => hfresh (.inl hphase)⟩
  rw [← hended, hphase]
  simp

theorem Session.Inv.coreStep {s s' : Session} (h : s.Inv) (hs : s.coreStep = some s') : s'.Inv := by
  obtain ⟨hcore, -⟩ := h
  obtain ⟨-, t, ht, rfl⟩ := Session.coreStep_some hs
  exact Session.inv_of_started (stepKeepsInv s.core t hcore ht) rfl

theorem Session.Inv.hostMove {unpack : PixelUnpack} {e : HostEvent} {s s' : Session} (h : s.Inv)
    (hs : HostMove unpack s e s') : s'.Inv := by
  have hcore : s.core.Inv := h.1
  have ⟨hmem, _, hmap⟩ := hcore
  cases hs with
  | reset gpr hidle => exact sessionStart_inv gpr hmap
  | imageLoad image t hphase hload =>
    obtain ⟨m, hm, rfl⟩ := State.loadImage_ok hload hmem
    exact (h.withMem hm).loaded hphase
  | startPass hstart =>
    obtain ⟨-, hfault⟩ := Session.mayStart_imp hstart
    exact Session.inv_of_started (hcore.startPass hfault) (by simp [State.startPass_stopped hfault])
  | setPixelData address value hidle =>
    obtain ⟨m, hm, ht⟩ := State.setPixelData_mem_only address value hmem
    rw [ht]
    exact h.withMem hm
  | renderPass hphase => exact h
  | quit => exact h

/-- Settles O50: a step of the running pass by O47, the host's events by what each may change. -/
theorem everyMoveKeepsSessionInv : Obligations.EveryMoveKeepsSessionInv := by
  rintro unpack s s' hinv (hcore | ⟨e, hhost⟩)
  · exact hinv.coreStep hcore
  · exact hinv.hostMove (Session.host_some hhost)

/-- Settles O60, by the moves the host is allowed. -/
theorem hostAndCoreNeverInterleave : Obligations.HostAndCoreNeverInterleave := by
  refine fun unpack s => ⟨fun hrun e he => ?_, Session.coreStep_of_idle, fun s' hs => ?_, Session.host_of_quit⟩
  · exact Option.eq_none_iff_forall_ne_some.mpr fun s' hs => he ((Session.host_some hs).eq_quit_of_running hrun)
  · cases Session.host_some hs with
    | renderPass hphase => exact ⟨rfl, hphase, rfl⟩

end Sys2Proof.Machine
end

section
/-!
SUPPORT. The encoder and the Decoder on each other's answers (R51, R52, R59): the opcode bits choose the row, and the word of a row's
instruction is the decoded word under the mask of its format.
-/
namespace Sys2Proof.Laws.EncodeOpcode

/-- The per-instruction statements together. -/
theorem statement_all : ∀ i : Instr, Statement i
  | .hlt => hlt
  | .imov r1 v => imov r1 v
  | .mov r1 r2 => mov r1 r2
  | .load r1 r2 r3 => load r1 r2 r3
  | .store r1 r2 r3 => store r1 r2 r3
  | .add r1 r2 => add r1 r2
  | .sub r1 r2 => sub r1 r2
  | .mul r1 r2 => mul r1 r2
  | .div r1 r2 => div r1 r2
  | .and r1 r2 => and r1 r2
  | .or r1 r2 => or r1 r2
  | .xor r1 r2 => xor r1 r2
  | .not r1 r2 => not r1 r2
  | .jmp r1 r2 => jmp r1 r2
  | .jz r1 r2 => jz r1 r2
  | .jnz r1 r2 => jnz r1 r2
  | .push r1 => push r1
  | .pop r1 => pop r1
  | .cmp r1 r2 => cmp r1 r2
  | .call => call
  | .ret => ret
  | .nop => nop
  | .unassigned22 w => unassigned22 w
  | .unassigned23 w => unassigned23 w
  | .unassigned24 w => unassigned24 w
  | .unassigned25 w => unassigned25 w
  | .unassigned26 w => unassigned26 w
  | .unassigned27 w => unassigned27 w
  | .unassigned28 w => unassigned28 w
  | .unassigned29 w => unassigned29 w
  | .unassigned30 w => unassigned30 w
  | .unassigned31 w => unassigned31 w

end Sys2Proof.Laws.EncodeOpcode

namespace Sys2Proof

/-! ## The five formats as numbers (R59) -/

theorem formatN_toNat (c : Opcode) : (formatN c).toNat = c.toNat * 2048 := by
  simp only [formatN, toNat_append, BitVec.toNat_ofNat]
  omega

theorem formatI_toNat (c : Opcode) (r1 : Reg) (imm8 : BitVec 8) :
    (formatI c r1 imm8).toNat = c.toNat * 2048 + r1.toNat * 256 + imm8.toNat := by
  simp only [formatI, toNat_append]
  omega

theorem formatR1_toNat (c : Opcode) (r1 : Reg) : (formatR1 c r1).toNat = c.toNat * 2048 + r1.toNat * 256 := by
  simp only [formatR1, toNat_append, BitVec.toNat_ofNat]
  omega

theorem formatR2_toNat (c : Opcode) (r1 r2 : Reg) :
    (formatR2 c r1 r2).toNat = c.toNat * 2048 + r1.toNat * 256 + r2.toNat * 32 := by
  simp only [formatR2, toNat_append, BitVec.toNat_ofNat]
  omega

theorem formatR3_toNat (c : Opcode) (r1 r2 r3 : Reg) :
    (formatR3 c r1 r2 r3).toNat = c.toNat * 2048 + r1.toNat * 256 + r2.toNat * 32 + r3.toNat * 4 := by
  simp only [formatR3, toNat_append, BitVec.toNat_ofNat]
  omega

/-! ## A format filled with a word's own fields is the word under the format's mask (R52) -/

theorem eq_and_highBits {v w mask : Word} (k : Nat) (hmask : mask = BitVec.allOnes 16 >>> k <<< k)
    (hv : v.toNat = w.toNat / 2 ^ k * 2 ^ k) : v = w &&& mask := by
  apply BitVec.eq_of_toNat_eq
  rw [hv, hmask, and_highBits]

section
variable {c : Opcode} {w : Word} (hc : c = opcodeOf w)
include hc

theorem formatN_eq_and : formatN c = w &&& 0xF800 := by
  apply eq_and_highBits 11 rfl
  rw [formatN_toNat, hc, opcodeOf_toNat]
  omega

theorem formatI_eq_and : formatI c (r1Of w) (imm8Of w) = w &&& 0xFFFF := by
  apply eq_and_highBits 0 rfl
  rw [formatI_toNat, hc, opcodeOf_toNat, r1Of_toNat, imm8Of_toNat]
  omega

theorem formatR1_eq_and : formatR1 c (r1Of w) = w &&& 0xFF00 := by
  apply eq_and_highBits 8 rfl
  rw [formatR1_toNat, hc, opcodeOf_toNat, r1Of_toNat]
  omega

theorem formatR2_eq_and : formatR2 c (r1Of w) (r2Of w) = w &&& 0xFFE0 := by
  apply eq_and_highBits 5 rfl
  rw [formatR2_toNat, hc, opcodeOf_toNat, r1Of_toNat, r2Of_toNat]
  omega

theorem formatR3_eq_and : formatR3 c (r1Of w) (r2Of w) (r3Of w) = w &&& 0xFFFC := by
  apply eq_and_highBits 2 rfl
  rw [formatR3_toNat, hc, opcodeOf_toNat, r1Of_toNat, r2Of_toNat, r3Of_toNat]
  omega

end

/-! ## The rows -/

theorem rowOfInstr_lt (i : Instr) : rowOfInstr i < 32 := by
  cases i <;> simp [rowOfInstr]

/-- The first 22 rows are the map's own, in its order (R54). -/
theorem codeOf_of_lt (m : OpcodeMap) {k : Nat} (hk : k < 22) : codeOf m k = m[k] := by
  have hlen : k < m.toList.length := by simpa using hk
  simp [codeOf, rowOpcodes, List.getD_eq_getElem?_getD, List.getElem?_append_left hlen, hk]

theorem length_unassignedOpcodes {m : OpcodeMap} (hm : m.wellFormed = true) : (unassignedOpcodes m).length = 10 := by
  have hrows := length_rowOpcodes hm
  rw [rowOpcodes, List.length_append, Vector.length_toList] at hrows
  omega

theorem rowOfInstr_decode {m : OpcodeMap} (hm : m.wellFormed = true) (w : Word) :
    rowOfInstr (decode m w) = rowOf m (opcodeOf w) :=
  rowOfInstr_instrOfRow (rowOf_lt hm _) w

/-- The operands are read back from the fields their format puts them in. -/
theorem instrOfRow_encode (m : OpcodeMap) (i : Instr) : instrOfRow (rowOfInstr i) (encode m i) = i := by
  cases i with
  | imov r1 imm8 => exact congrArg₂ Instr.imov (r1Of_fields ..) (imm8Of_fields ..)
  | push r1 => exact congrArg Instr.push (r1Of_fields ..)
  | pop r1 => exact congrArg Instr.pop (r1Of_fields ..)
  | load r1 r2 r3 | store r1 r2 r3 =>
    simp only [rowOfInstr, instrOfRow, encode, formatR3, r1Of_r3, r2Of_r3, r3Of_fields]
  | mov r1 r2 | add r1 r2 | sub r1 r2 | mul r1 r2 | div r1 r2 | and r1 r2 | or r1 r2 | xor r1 r2
  | not r1 r2 | jmp r1 r2 | jz r1 r2 | jnz r1 r2 | cmp r1 r2 =>
    simp only [rowOfInstr, instrOfRow, encode, formatR2, r1Of_r2, r2Of_fields]
  | _ => rfl

/-- Which bits a format uses is settled by the row alone. -/
theorem usedBits_instrOfRow {k : Nat} (hk : k < 32) (w w' : Word) :
    usedBits (instrOfRow k w) = usedBits (instrOfRow k w') := by
  interval_cases k <;> rfl

/-- Every format uses the opcode bits. -/
theorem usedBits_and_opcodeBits (i : Instr) : usedBits i &&& 0xF800 = 0xF800 := by
  unfold usedBits
  split <;> decide

theorem opcodeOf_congr_of_usedBits {w w' : Word} {i : Instr} (hused : w &&& usedBits i = w' &&& usedBits i) :
    opcodeOf w = opcodeOf w' := by
  have hopcode : w &&& 0xF800 = w' &&& 0xF800 := by
    rw [← usedBits_and_opcodeBits i, ← BitVec.and_assoc, hused, BitVec.and_assoc]
  exact field_congr hopcode 11 5 (by decide)

/-- The instruction of a row below 22 encodes to the word with its ignored bits 0. -/
theorem encode_instrOfRow_mnemonic {m : OpcodeMap} {w : Word} {k : Nat} (hk : k < 22) (hc : codeOf m k = opcodeOf w) :
    encode m (instrOfRow k w) = w &&& usedBits (instrOfRow k w) := by
  match k, hk with
  | 0, _ | 19, _ | 20, _ | 21, _ => exact formatN_eq_and hc
  | 1, _ => exact formatI_eq_and hc
  | 16, _ | 17, _ => exact formatR1_eq_and hc
  | 3, _ | 4, _ => exact formatR3_eq_and hc
  | 2, _ | 5, _ | 6, _ | 7, _ | 8, _ | 9, _ | 10, _ | 11, _ | 12, _ | 13, _ | 14, _ | 15, _ | 18, _ =>
    exact formatR2_eq_and hc
  | _ + 22, hk => omega

/-- The instruction of a row from 22 up carries its word whole. -/
theorem encode_instrOfRow_unassigned (m : OpcodeMap) (w : Word) {k : Nat} (h22 : 22 ≤ k) (hk : k < 32) :
    encode m (instrOfRow k w) = w := by
  interval_cases k <;> rfl

theorem wellFormed_instrOfRow {m : OpcodeMap} {w : Word} {k : Nat} (hk : k < 32) (hc : codeOf m k = opcodeOf w) :
    (instrOfRow k w).wellFormed m = true := by
  rcases lt_or_ge k 22 with hmnemonic | hunassigned
  · interval_cases k <;> rfl
  · interval_cases k <;> exact beq_iff_eq.mpr hc

/-- An instruction of a row from 22 up is an unrecognized opcode (R135). -/
theorem exec_instrOfRow_unassigned (w : Word) (s : Machine.State) {k : Nat} (h22 : 22 ≤ k) (hk : k < 32) :
    Machine.exec (instrOfRow k w) s = Machine.unrecognized w s := by
  interval_cases k <;> rfl

/-! ## Decoder and encoder together -/

section
variable {m : OpcodeMap} (hm : m.wellFormed = true)
include hm

theorem decode_encode {i : Instr} (hi : i.wellFormed m = true) : decode m (encode m i) = i :=
  calc decode m (encode m i)
      = instrOfRow (rowOfInstr i) (encode m i) :=
        decode_of_row (Laws.EncodeOpcode.statement_all i m hm hi) (rowOf_codeOf hm (rowOfInstr_lt i))
    _ = i := instrOfRow_encode m i

theorem decode_wellFormed (w : Word) : (decode m w).wellFormed m = true :=
  wellFormed_instrOfRow (rowOf_lt hm _) (codeOf_rowOf m _)

theorem encode_decode_mnemonic {w : Word} (hrow : rowOfInstr (decode m w) < 22) :
    encode m (decode m w) = w &&& usedBits (decode m w) := by
  rw [rowOfInstr_decode hm] at hrow
  exact encode_instrOfRow_mnemonic hrow (codeOf_rowOf m _)

theorem encode_decode_unassigned {w : Word} (hrow : 22 ≤ rowOfInstr (decode m w)) : encode m (decode m w) = w := by
  rw [rowOfInstr_decode hm] at hrow
  exact encode_instrOfRow_unassigned m w hrow (rowOf_lt hm _)

theorem exec_decode_unassigned {w : Word} (hrow : 22 ≤ rowOfInstr (decode m w)) (s : Machine.State) :
    Machine.exec (decode m w) s = Machine.unrecognized w s := by
  rw [rowOfInstr_decode hm] at hrow
  exact exec_instrOfRow_unassigned w s hrow (rowOf_lt hm _)

theorem usedBits_decode {w w' : Word} (hop : opcodeOf w = opcodeOf w') :
    usedBits (decode m w) = usedBits (decode m w') := by
  rw [decode, decode, hop]
  exact usedBits_instrOfRow (rowOf_lt hm _) w w'

theorem rowOfInstr_decode_congr {w w' : Word} (hop : opcodeOf w = opcodeOf w') :
    rowOfInstr (decode m w) = rowOfInstr (decode m w') := by
  rw [rowOfInstr_decode hm, rowOfInstr_decode hm, hop]

/-- R55 for a mnemonic. Both instructions encode to the used bits, which the words share, and an instruction is decided by its encoding. -/
theorem decode_congr_of_usedBits {w w' : Word} (hop : opcodeOf w = opcodeOf w')
    (hused : w &&& usedBits (decode m w) = w' &&& usedBits (decode m w)) (hrow : rowOfInstr (decode m w) < 22) :
    decode m w' = decode m w := by
  have hrow' : rowOfInstr (decode m w') < 22 := rowOfInstr_decode_congr hm hop ▸ hrow
  have hencode : encode m (decode m w') = encode m (decode m w) := by
    rw [encode_decode_mnemonic hm hrow', encode_decode_mnemonic hm hrow, hused, usedBits_decode hm hop]
  calc decode m w'
      = decode m (encode m (decode m w')) := (decode_encode hm (decode_wellFormed hm w')).symm
    _ = decode m (encode m (decode m w)) := by rw [hencode]
    _ = decode m w := decode_encode hm (decode_wellFormed hm w)

end

end Sys2Proof
end

section
/-!
SUPPORT. The statements about the Decoder and the encoder, each from the lemmas above.
-/
namespace Sys2Proof

open Machine

/-- Settles O4: the word's opcode bits choose the instruction's row, and the row reads the operands back. -/
theorem decodeOfEncode : Obligations.DecodeOfEncode :=
  fun _ _ hm hi => decode_encode hm hi

/-- Settles O3: the row of a decoded word is the place of its opcode bits among the map's 32 rows. -/
theorem opcodeAloneSelects : Obligations.OpcodeAloneSelects := by
  refine ⟨fun m hm => ⟨length_unassignedOpcodes hm, fun w => ?_, fun w k hk => ?_, fun w w' => rowOfInstr_decode_congr hm⟩,
    by decide⟩
  · rw [rowOfInstr_decode hm, rowOf_lt_22_iff]
  · rw [rowOfInstr_decode hm, hk, ← codeOf_of_lt m k.isLt, rowOf_codeOf hm (by omega)]

/-- Settles O5, by whether the word's row is a mnemonic's or an unassigned opcode's. -/
theorem encodeOfDecode : Obligations.EncodeOfDecode :=
  fun _ w hm => ⟨decode_wellFormed hm w, encode_decode_mnemonic hm, encode_decode_unassigned hm⟩

/-- Settles O6: a mnemonic's two words decode alike, and an unassigned opcode's two words differ in the reported event only. -/
theorem ignoredBitsHaveNoEffect : Obligations.IgnoredBitsHaveNoEffect := by
  intro m w w' s t hm hused hexec
  have hop := opcodeOf_congr_of_usedBits hused
  refine ⟨decode_congr_of_usedBits hm hop hused, ?_⟩
  rcases lt_or_ge (rowOfInstr (decode m w)) 22 with hrow | hrow
  · exact ⟨t.trace, by rw [decode_congr_of_usedBits hm hop hused hrow, hexec]⟩
  · have hrow' : 22 ≤ rowOfInstr (decode m w') := rowOfInstr_decode_congr hm hop ▸ hrow
    rw [exec_decode_unassigned hm hrow, unrecognized_eq] at hexec
    cases hexec
    rw [exec_decode_unassigned hm hrow', unrecognized_eq]
    exact ⟨s.trace ++ [.unrecognizedOpcode s.pc w'], rfl⟩

/-- Settles O1: the fields by division, where 16 bits leave five for the opcode, and a number below 65536 is a word. -/
theorem fieldsOfEveryWord : Obligations.FieldsOfEveryWord := by
  refine ⟨fun w => ⟨?_, r1Of_toNat w, r2Of_toNat w, r3Of_toNat w, imm8Of_toNat w⟩, fun n hn => ?_⟩
  · rw [opcodeOf_toNat]
    omega
  · rw [decodeTableWord, if_pos le_rfl, Nat.mod_eq_of_lt (b := 2 ^ 16) hn]

/-- Settles O2, by running the Decoder on the 24 words. -/
theorem tableWordsDecode : Obligations.TableWordsDecode := by
  unfold Obligations.TableWordsDecode
  decide

/-- Settles O7, format by format. -/
theorem encodedWordLayout : Obligations.EncodedWordLayout := by
  refine fun m a b c v => ⟨?formatN, formatI_toNat .., ?formatR1, ?formatR2, ?formatR3⟩
  case formatN => simp [encode, formatN_toNat]
  case formatR1 => simp [encode, formatR1_toNat]
  case formatR2 => simp [encode, formatR2_toNat]
  case formatR3 => simp [encode, formatR3_toNat]

end Sys2Proof
end

section
/-!
SUPPORT. The step cycle (R70 to R75): the address a register pair forms, the step a stopped CORE does not take, the driving loop, and the start
of a pass.
-/
namespace Sys2Proof.Machine

/-! ## The register pair (R73) -/

/-- A low half of one byte overlaps no bit of the shifted high half, so the pair is their concatenation. -/
theorem pairValue_toNat_of_low_byte {h l : Word} (hl : l.toNat < 256) : (pairValue h l).toNat = h.toNat * 256 + l.toNat := by
  rw [pairValue_toNat, ← Nat.shiftLeft_eq h.toNat 8, Nat.shiftLeft_add_eq_or_of_lt hl]

theorem takeJump_of_over {h l : Reg} {s : State} (hv : 0xFFFF < (s.pairAddr h l).toNat) :
    takeJump h l s = .next (s.raise .addressError (some (s.pairAddr h l))) :=
  withPairAddr_of_over hv

/-- The five instructions that form a pair's address fault on one above 0xFFFF; a jump not taken forms none (R73, R163). -/
theorem exec_of_formedPair_over {i : Instr} {s : State} {h l : Reg} (hp : formedPair s i = some (h, l))
    (hv : 0xFFFF < (s.pairAddr h l).toNat) : exec i s = .next (s.raise .addressError (some (s.pairAddr h l))) := by
  cases i with
  | load r1 r2 r3 | store r1 r2 r3 =>
    cases hp
    simp only [exec_load, exec_store, withPairAddr_of_over hv]
  | jmp r1 r2 =>
    cases hp
    exact takeJump_of_over hv
  | jz r1 r2 =>
    obtain ⟨hz, ⟨⟩⟩ := Option.ite_none_right_eq_some.mp hp
    rw [exec_jz, if_pos hz, takeJump_of_over hv]
  | jnz r1 r2 =>
    obtain ⟨hz, ⟨⟩⟩ := Option.ite_none_left_eq_some.mp hp
    rw [exec_jnz, if_pos (Bool.eq_false_of_not_eq_true hz), takeJump_of_over hv]
  | _ => cases hp

/-- Settles O34: the pair's value by its number, and its fault by cases on the instructions that form one. -/
theorem pairAddressIsUnmaskedOr : Obligations.PairAddressIsUnmaskedOr :=
  ⟨fun _ _ _ => ⟨pairValue_toNat .., pairValue_le_iff .., fun _ => pairValue_toNat_of_low_byte⟩,
    fun _ s _ _ hp hv => ⟨_, exec_of_formedPair_over hp hv, faultEntry_raise s _ _⟩⟩

/-! ## The step (R70, R75) -/

theorem step_of_faulted {s : State} (h : s.fault ≠ none) : step s = .fault .coreFaulted :=
  if_pos (Option.isSome_iff_ne_none.mpr h)

theorem step_of_halted {s : State} (hfault : s.fault = none) (hhalted : s.halted = true) :
    step s = .fault .coreHalted := by
  simp [step, hfault, hhalted]

/-- Settles O8, by the step of a running CORE. -/
theorem stepRunsDecodedInstruction : Obligations.StepRunsDecodedInstruction :=
  fun s hhalted hfault => step_of_running ((stopped_eq_false_iff s).mpr ⟨hhalted, hfault⟩)

/-! ## The driving loop (R71) -/

theorem runFor_succ_of_step {s t : State} (h : step s = .next t) (n : Nat) : s.runFor (n + 1) = t.runFor n := by
  rw [runFor_succ, h]

theorem runFor_of_stopped {s : State} (h : s.stopped = true) (n : Nat) : s.runFor n = s := by
  cases n with
  | zero => rfl
  | succ n => rcases step_of_stopped h with hs | hs <;> rw [runFor_succ, hs]

theorem runFor_add (s : State) (n k : Nat) : s.runFor (n + k) = (s.runFor n).runFor k := by
  induction n generalizing s with
  | zero => rw [Nat.zero_add, State.runFor]
  | succ n ih =>
    rw [Nat.succ_add]
    cases hs : s.stopped with
    | true => simp only [runFor_of_stopped hs]
    | false =>
      obtain ⟨t, ht⟩ := step_completes hs
      rw [runFor_succ_of_step ht, runFor_succ_of_step ht, ih]

/-- Settles O57: a running CORE completes its step, the loop splits, and what follows a stopped state is that state. -/
theorem passStopsAtFirstHaltOrFault : Obligations.PassStopsAtFirstHaltOrFault := by
  refine fun s n k => ⟨fun hrun => ?_, runFor_add s n k, fun hstop => ?_⟩
  · obtain ⟨t, ht⟩ := step_completes hrun
    exact ⟨t, ht, runFor_succ_of_step ht n⟩
  · rw [runFor_add, runFor_of_stopped hstop]

/-! ## The start of a pass (R74) -/

theorem State.startPass_of_faulted {s : State} (h : s.fault ≠ none) : s.startPass = s :=
  if_pos (Option.isSome_iff_ne_none.mpr h)

theorem State.startPass_of_fault_none {s : State} (h : s.fault = none) :
    s.startPass = { s with pc := 0x0000, halted := false } := by
  simp [State.startPass, h, pcStart]

/-- R74, R186: from which phases, and under which `RESTART_MODE`, a pass may start. -/
theorem Session.mayStart_iff (s : Session) : s.mayStart = true ↔ s.core.fault = none ∧
    (s.phase = .loaded ∨ s.phase = .ended ∧ s.core.params.restartMode = .replayFromZero) := by
  simp [Session.mayStart, and_comm]

/-- A host that has not quit may start a pass exactly when `mayStart` allows it. -/
theorem Session.host_startPass_ne_none_iff (unpack : PixelUnpack) {s : Session} (hquit : s.quit = false) :
    s.host unpack .startPass ≠ none ↔ s.mayStart = true := by
  simp [Session.host, hquit]

/-- Settles O9: the two named stops, the start of a pass on either side of FAULT, and the loop from a stopped state. -/
theorem stoppedCoreTakesNoStep : Obligations.StoppedCoreTakesNoStep :=
  fun _ => ⟨fun hfault => ⟨step_of_faulted hfault, State.startPass_of_faulted hfault⟩,
    fun hfault hhalted => ⟨step_of_halted hfault hhalted, State.startPass_pc hfault, State.startPass_stopped hfault⟩,
    runFor_of_stopped⟩

/-- Settles O56: the start of a pass on either side of FAULT, and the host's condition for raising it. -/
theorem startOfPass : Obligations.StartOfPass :=
  ⟨fun _ => ⟨State.startPass_of_fault_none, State.startPass_of_faulted⟩,
    fun unpack s hquit => (Session.host_startPass_ne_none_iff unpack hquit).trans s.mayStart_iff⟩

end Sys2Proof.Machine
end

section
/-!
SUPPORT. The data movement instructions (R80 to R83): the words that decode to them under the default map (R54), and LOAD and STORE at a legal
address. Each statement is then one register write, one memory write or one fault entry.
-/
namespace Sys2Proof.Machine

/-! ## Decoding under the default map -/

theorem decode_imov (r1 : Reg) (v : BitVec 8) : decode defaultOpcodeMap (0b00001#5 ++ r1 ++ v) = .imov r1 v :=
  (decode_of_row (opcodeOf_r1 ..) rfl).trans (congrArg₂ Instr.imov (r1Of_fields ..) (imm8Of_fields ..))

theorem decode_mov (r1 r2 : Reg) (ignored : BitVec 5) :
    decode defaultOpcodeMap (0b00010#5 ++ r1 ++ r2 ++ ignored) = .mov r1 r2 :=
  (decode_of_row (opcodeOf_r2 ..) rfl).trans (congrArg₂ Instr.mov (r1Of_r2 ..) (r2Of_fields ..))

theorem decode_load (r1 r2 r3 : Reg) (ignored : BitVec 2) :
    decode defaultOpcodeMap (0b00011#5 ++ r1 ++ r2 ++ r3 ++ ignored) = .load r1 r2 r3 := by
  rw [decode_of_row (opcodeOf_r3 ..) (k := 3) rfl, instrOfRow, r1Of_r3, r2Of_r3, r3Of_fields]

theorem decode_store (r1 r2 r3 : Reg) (ignored : BitVec 2) :
    decode defaultOpcodeMap (0b00100#5 ++ r1 ++ r2 ++ r3 ++ ignored) = .store r1 r2 r3 := by
  rw [decode_of_row (opcodeOf_r3 ..) (k := 4) rfl, instrOfRow, r1Of_r3, r2Of_r3, r3Of_fields]

/-! ## The immediate and the memory operand -/

/-- R53: zero extension keeps the number. -/
theorem zext16_toNat (v : BitVec 8) : (zext16 v).toNat = v.toNat :=
  BitVec.toNat_setWidth_of_le (by decide)

/-- A pair is over 0xFFFF exactly when its high register is over a byte, whatever the low one holds (R73). -/
theorem pairAddr_over_iff (s : State) (h l : Reg) : 0xFFFF < (s.pairAddr h l).toNat ↔ 0x00FF < (s.reg h).toNat :=
  lt_iff_lt_of_le_iff_le (pairValue_le_iff ..)

section
variable {s : State} {a : Word}

theorem exec_load_of_addr (r1 : Reg) {r2 r3 : Reg} (ha : a.toNat = (s.pairAddr r2 r3).toNat) :
    exec (.load r1 r2 r3) s = .next (s.setReg r1 (s.memRead a)).advance := by
  rw [exec_load, withPairAddr_of_addr ha]

theorem exec_store_of_addr {r1 r2 : Reg} (r3 : Reg) (ha : a.toNat = (s.pairAddr r1 r2).toNat) :
    exec (.store r1 r2 r3) s = .next (s.memWrite a (s.reg r3)).advance := by
  rw [exec_store, withPairAddr_of_addr ha]

end

/-! ## The statements -/

/-- Settles O15: at a legal address LOAD is a write of the destination by the word read, above 0xFFFF it is the pair's fault. -/
theorem loadReadsPairAddress : Obligations.LoadReadsPairAddress := by
  refine fun r1 r2 r3 ignored => ⟨decode_load r1 r2 r3 ignored, fun s => ⟨fun a ha => ?legal, fun hv => ?fault,
    pairAddr_over_iff s r2 r3⟩⟩
  case legal => exact ⟨_, exec_load_of_addr r1 ha, State.reg_setReg_same s r1 _, writesOnlyReg_setReg s r1 _⟩
  case fault => exact ⟨_, exec_of_formedPair_over rfl hv, faultEntry_raise s _ _⟩

/-- Settles O16: at a legal address STORE is one memory write and a continuing step, above 0xFFFF it is the pair's fault. -/
theorem storeWritesPairAddress : Obligations.StoreWritesPairAddress := by
  refine fun r1 r2 r3 ignored => ⟨decode_store r1 r2 r3 ignored, fun s => ⟨fun a ha => ?legal, fun hv => ?fault,
    pairAddr_over_iff s r1 r2⟩⟩
  case legal =>
    exact ⟨_, exec_store_of_addr r3 ha, State.memRead_memWrite_same s a _, sameMemBut_memWrite s a _, pcNext_advance _,
      fun _ => rfl, rfl, rfl, ⟨rfl, rfl⟩, rfl, rfl⟩
  case fault => exact ⟨_, exec_of_formedPair_over rfl hv, faultEntry_raise s _ _⟩

/-- Settles O13: IMOV is a write of its register by the immediate, whose number zero extension keeps. -/
theorem imovWritesZeroExtended : Obligations.ImovWritesZeroExtended := by
  refine fun r1 v => ⟨decode_imov r1 v, fun s => ⟨_, exec_imov r1 v s, ?_, writesOnlyReg_setReg s r1 _⟩⟩
  rw [State.reg_advance, State.reg_setReg_same, zext16_toNat]

/-- Settles O14: MOV is a write of its first register by the second, read beforehand. -/
theorem movCopiesRegister : Obligations.MovCopiesRegister :=
  fun r1 r2 ignored => ⟨decode_mov r1 r2 ignored, fun s =>
    ⟨_, exec_mov r1 r2 s, State.reg_setReg_same s r1 _, writesOnlyReg_setReg s r1 _⟩⟩

end Sys2Proof.Machine
end

section
/-!
SUPPORT. The arithmetic instructions (R90 to R94): a word of two register fields decodes by the row of its opcode (R52, R54), and the number of
a difference modulo 65536. Each statement is then one register write or, for DIV, one fault entry.
-/
namespace Sys2Proof.Machine

/-! ## Decoding under the default map -/

/-- A row whose instruction takes exactly the fields `r1` and `r2` (R52) gets them back from its word, whatever the five ignored bits hold. -/
theorem decode_two_fields {m : OpcodeMap} {c : Opcode} {k : Nat} {instr : Reg → Reg → Instr} (hk : rowOf m c = k)
    (hrow : ∀ w, instrOfRow k w = instr (r1Of w) (r2Of w)) (r1 r2 : Reg) (ignored : BitVec 5) :
    decode m (c ++ r1 ++ r2 ++ ignored) = instr r1 r2 := by
  rw [decode_of_row (opcodeOf_r2 ..) hk, hrow, r1Of_r2, r2Of_fields]

theorem decode_add (r1 r2 : Reg) (ignored : BitVec 5) :
    decode defaultOpcodeMap (0b00101#5 ++ r1 ++ r2 ++ ignored) = .add r1 r2 :=
  decode_two_fields (k := 5) rfl (fun _ => rfl) r1 r2 ignored

theorem decode_sub (r1 r2 : Reg) (ignored : BitVec 5) :
    decode defaultOpcodeMap (0b00110#5 ++ r1 ++ r2 ++ ignored) = .sub r1 r2 :=
  decode_two_fields (k := 6) rfl (fun _ => rfl) r1 r2 ignored

theorem decode_mul (r1 r2 : Reg) (ignored : BitVec 5) :
    decode defaultOpcodeMap (0b00111#5 ++ r1 ++ r2 ++ ignored) = .mul r1 r2 :=
  decode_two_fields (k := 7) rfl (fun _ => rfl) r1 r2 ignored

theorem decode_div (r1 r2 : Reg) (ignored : BitVec 5) :
    decode defaultOpcodeMap (0b01000#5 ++ r1 ++ r2 ++ ignored) = .div r1 r2 :=
  decode_two_fields (k := 8) rfl (fun _ => rfl) r1 r2 ignored

/-! ## Results -/

/-- What the destination reads after a continuing step that wrote it. -/
theorem State.reg_setReg_advance (s : State) (r : Reg) (v : Word) : (s.setReg r v).advance.reg r = v := by
  rw [State.reg_advance, State.reg_setReg_same]

/-- A borrow adds 65536 once, so the word's number is the integer difference reduced into 0 to 65535 (R92). -/
theorem toNat_sub_eq_emod (a b : Word) : ((a - b).toNat : Int) = ((a.toNat : Int) - b.toNat) % 65536 := by
  have ha := a.isLt
  have hb := b.isLt
  rw [BitVec.toNat_sub]
  omega

theorem exec_div_of_ne_zero (r1 : Reg) {r2 : Reg} {s : State} (h : s.reg r2 ≠ 0) :
    exec (.div r1 r2) s = .next (s.setReg r1 (s.reg r1 / s.reg r2)).advance := by
  rw [exec_div, if_neg h]

theorem exec_div_of_eq_zero (r1 : Reg) {r2 : Reg} {s : State} (h : s.reg r2 = 0) :
    exec (.div r1 r2) s = .next (s.raise .divideByZero none) := by
  rw [exec_div, if_pos h]

/-! ## The statements -/

/-- Settles O20: with a non-zero divisor DIV is a write of the quotient, with a zero one it is the fault entry. -/
theorem divFloorsOrFaults : Obligations.DivFloorsOrFaults := by
  refine fun r1 r2 ignored => ⟨decode_div r1 r2 ignored, fun s => ⟨fun hne => ?quotient, fun hzero => ?fault⟩⟩
  case quotient =>
    refine ⟨_, exec_div_of_ne_zero r1 hne, ?_, writesOnlyReg_setReg s r1 _⟩
    rw [State.reg_setReg_advance, BitVec.toNat_udiv]
  case fault => exact ⟨_, exec_div_of_eq_zero r1 hzero, faultEntry_raise s _ _⟩

/-- Settles O17: ADD is a write of its first register by the 16-bit sum. -/
theorem addWrapsModulo65536 : Obligations.AddWrapsModulo65536 := by
  refine fun r1 r2 ignored => ⟨decode_add r1 r2 ignored, fun s => ⟨_, exec_add r1 r2 s, ?_, writesOnlyReg_setReg s r1 _⟩⟩
  rw [State.reg_setReg_advance, BitVec.toNat_add]

/-- Settles O18: SUB is a write of its first register by the 16-bit difference. -/
theorem subWrapsModulo65536 : Obligations.SubWrapsModulo65536 := by
  refine fun r1 r2 ignored => ⟨decode_sub r1 r2 ignored, fun s => ⟨_, exec_sub r1 r2 s, ?_, writesOnlyReg_setReg s r1 _⟩⟩
  rw [State.reg_setReg_advance, toNat_sub_eq_emod]

/-- Settles O19: MUL is a write of its first register by the 16-bit product. -/
theorem mulKeepsLowHalf : Obligations.MulKeepsLowHalf := by
  refine fun r1 r2 ignored => ⟨decode_mul r1 r2 ignored, fun s => ⟨_, exec_mul r1 r2 s, ?_, writesOnlyReg_setReg s r1 _⟩⟩
  rw [State.reg_setReg_advance, BitVec.toNat_mul]

/-- Settles O21: the same three writes; two's-complement reading turns the 16-bit operation into the balanced residue of the integer one. -/
theorem signedReadingAgrees : Obligations.SignedReadingAgrees := by
  refine fun r1 r2 s => ⟨⟨_, exec_add r1 r2 s, ?sum⟩, ⟨_, exec_sub r1 r2 s, ?difference⟩, ⟨_, exec_mul r1 r2 s, ?product⟩⟩
  case sum => rw [State.reg_setReg_advance, BitVec.toInt_add]
  case difference => rw [State.reg_setReg_advance, BitVec.toInt_sub]
  case product => rw [State.reg_setReg_advance, BitVec.toInt_mul]

end Sys2Proof.Machine
end

section
/-!
SUPPORT. The logic instructions (R101 to R104). AND, OR and XOR are one register write each, whose bits are those of the library's bitwise
operations; NOT is a write of the complement of its second field's register.
-/
namespace Sys2Proof.Machine

/-! ## Decoding under the default map -/

theorem decode_and (r1 r2 : Reg) (ignored : BitVec 5) :
    decode defaultOpcodeMap (0b01001#5 ++ r1 ++ r2 ++ ignored) = .and r1 r2 :=
  decode_two_fields (k := 9) rfl (fun _ => rfl) r1 r2 ignored

theorem decode_or (r1 r2 : Reg) (ignored : BitVec 5) :
    decode defaultOpcodeMap (0b01010#5 ++ r1 ++ r2 ++ ignored) = .or r1 r2 :=
  decode_two_fields (k := 10) rfl (fun _ => rfl) r1 r2 ignored

theorem decode_xor (r1 r2 : Reg) (ignored : BitVec 5) :
    decode defaultOpcodeMap (0b01011#5 ++ r1 ++ r2 ++ ignored) = .xor r1 r2 :=
  decode_two_fields (k := 11) rfl (fun _ => rfl) r1 r2 ignored

theorem decode_not (r1 r2 : Reg) (ignored : BitVec 5) :
    decode defaultOpcodeMap (0b01100#5 ++ r1 ++ r2 ++ ignored) = .not r1 r2 :=
  decode_two_fields (k := 12) rfl (fun _ => rfl) r1 r2 ignored

/-! ## The statements -/

/-- Settles O22: each of the three is a write of its first register by a word whose bits the bitwise operation gives. -/
theorem andOrXorBitByBit : Obligations.AndOrXorBitByBit := by
  refine fun r1 r2 ignored => ⟨decode_and r1 r2 ignored, decode_or r1 r2 ignored, decode_xor r1 r2 ignored, fun s =>
    ⟨⟨_, exec_and r1 r2 s, fun k _ => ?and, writesOnlyReg_setReg s r1 _⟩,
      ⟨_, exec_or r1 r2 s, fun k _ => ?or, writesOnlyReg_setReg s r1 _⟩,
      ⟨_, exec_xor r1 r2 s, fun k _ => ?xor, writesOnlyReg_setReg s r1 _⟩⟩⟩
  case and => rw [State.reg_setReg_advance, BitVec.getLsbD_and]
  case or => rw [State.reg_setReg_advance, BitVec.getLsbD_or]
  case xor => rw [State.reg_setReg_advance, BitVec.getLsbD_xor]

/-- Settles O23: NOT is a write of its first register by the complement, 65535 less the number of the second. -/
theorem notComplementsSource : Obligations.NotComplementsSource := by
  refine fun r1 r2 ignored => ⟨decode_not r1 r2 ignored, fun s => ⟨_, exec_not r1 r2 s, ?_, writesOnlyReg_setReg s r1 _⟩⟩
  rw [State.reg_setReg_advance, BitVec.toNat_not]

end Sys2Proof.Machine
end

section
/-!
SUPPORT. CMP and the jumps (R111 to R114). What a taken jump does is said once for the three, over the pair `takenJump` names; a jump not
taken is a continuing step that writes nothing, and CMP is a write of ZF.
-/
namespace Sys2Proof.Machine

/-! ## Decoding under the default map -/

theorem decode_jmp (r1 r2 : Reg) (ignored : BitVec 5) :
    decode defaultOpcodeMap (0b01101#5 ++ r1 ++ r2 ++ ignored) = .jmp r1 r2 :=
  decode_two_fields (k := 13) rfl (fun _ => rfl) r1 r2 ignored

theorem decode_jz (r1 r2 : Reg) (ignored : BitVec 5) :
    decode defaultOpcodeMap (0b01110#5 ++ r1 ++ r2 ++ ignored) = .jz r1 r2 :=
  decode_two_fields (k := 14) rfl (fun _ => rfl) r1 r2 ignored

theorem decode_jnz (r1 r2 : Reg) (ignored : BitVec 5) :
    decode defaultOpcodeMap (0b01111#5 ++ r1 ++ r2 ++ ignored) = .jnz r1 r2 :=
  decode_two_fields (k := 15) rfl (fun _ => rfl) r1 r2 ignored

theorem decode_cmp (r1 r2 : Reg) (ignored : BitVec 5) :
    decode defaultOpcodeMap (0b10010#5 ++ r1 ++ r2 ++ ignored) = .cmp r1 r2 :=
  decode_two_fields (k := 18) rfl (fun _ => rfl) r1 r2 ignored

/-! ## Jumps, taken and not taken -/

theorem takenJump_jz {s : State} (r1 r2 : Reg) (hz : s.zf = true) : takenJump s (.jz r1 r2) = some (r1, r2) :=
  if_pos hz

theorem takenJump_jnz {s : State} (r1 r2 : Reg) (hz : s.zf = false) : takenJump s (.jnz r1 r2) = some (r1, r2) :=
  if_neg (ne_true_of_eq_false hz)

theorem exec_jz_of_zf_clear {s : State} (r1 r2 : Reg) (hz : s.zf = false) : exec (.jz r1 r2) s = .next s.advance := by
  rw [exec_jz, if_neg (ne_true_of_eq_false hz)]

theorem exec_jnz_of_zf_set {s : State} (r1 r2 : Reg) (hz : s.zf = true) : exec (.jnz r1 r2) s = .next s.advance := by
  rw [exec_jnz, if_neg (ne_false_of_eq_true hz)]

section
variable {i : Instr} {s : State} {h l : Reg}

theorem takeJump_of_addr {a : Word} (ha : a.toNat = (s.pairAddr h l).toNat) :
    takeJump h l s = .next (s.jumpTo a) :=
  withPairAddr_of_addr ha

theorem exec_of_takenJump (hj : takenJump s i = some (h, l)) : exec i s = takeJump h l s := by
  cases i with
  | jmp r1 r2 =>
    cases hj
    exact exec_jmp ..
  | jz r1 r2 =>
    obtain ⟨hz, ⟨⟩⟩ := Option.ite_none_right_eq_some.mp hj
    rw [exec_jz, if_pos hz]
  | jnz r1 r2 =>
    obtain ⟨hz, ⟨⟩⟩ := Option.ite_none_left_eq_some.mp hj
    rw [exec_jnz, if_pos (Bool.eq_false_of_not_eq_true hz)]
  | _ => cases hj

/-- R110: a taken jump whose pair forms a 16-bit address goes there. -/
theorem takenJump_lands {a : Word} (hj : takenJump s i = some (h, l)) (ha : a.toNat = (s.pairAddr h l).toNat) :
    ∃ t, exec i s = .next t ∧ t.pc = a ∧ WritesOnlyPc s t :=
  ⟨_, (exec_of_takenJump hj).trans (takeJump_of_addr ha), s.jumpTo_pc a, writesOnlyPc_jumpTo s a⟩

/-- R73, R163: a pair that forms a value above 0xFFFF is latched as an address error. A taken jump forms one. -/
theorem formedPair_faults (hp : formedPair s i = some (h, l)) (hv : 0xFFFF < (s.pairAddr h l).toNat) :
    ∃ t, exec i s = .next t ∧ FaultEntry .addressError (some (s.pairAddr h l)) s t :=
  ⟨_, exec_of_formedPair_over hp hv, faultEntry_raise s _ _⟩

end

/-! ## The statements -/

/-- Settles O25: JMP is a taken jump in every state. -/
theorem jmpLandsOnTarget : Obligations.JmpLandsOnTarget :=
  fun r1 r2 ignored => ⟨decode_jmp r1 r2 ignored, fun _ => ⟨fun _ => takenJump_lands rfl, formedPair_faults rfl⟩⟩

/-- Settles O26: with ZF true JZ is a taken jump, with ZF false a continuing step. -/
theorem jzTakenIffZfSet : Obligations.JzTakenIffZfSet :=
  fun r1 r2 ignored => ⟨decode_jz r1 r2 ignored, fun s =>
    ⟨fun _ hz => takenJump_lands (takenJump_jz r1 r2 hz), fun hz => formedPair_faults (takenJump_jz r1 r2 hz),
      fun hz => ⟨_, exec_jz_of_zf_clear r1 r2 hz, pcNext_advance s, writesOnlyPc_advance s⟩⟩⟩

/-- Settles O27: with ZF false JNZ is a taken jump, with ZF true a continuing step. -/
theorem jnzTakenIffZfClear : Obligations.JnzTakenIffZfClear :=
  fun r1 r2 ignored => ⟨decode_jnz r1 r2 ignored, fun s =>
    ⟨fun _ hz => takenJump_lands (takenJump_jnz r1 r2 hz), fun hz => formedPair_faults (takenJump_jnz r1 r2 hz),
      fun hz => ⟨_, exec_jnz_of_zf_set r1 r2 hz, pcNext_advance s, writesOnlyPc_advance s⟩⟩⟩

/-- Settles O24: CMP overwrites ZF by the decision of the 16-bit equality and continues. -/
theorem cmpSetsZfOnEquality : Obligations.CmpSetsZfOnEquality := by
  refine fun r1 r2 ignored => ⟨decode_cmp r1 r2 ignored, fun s =>
    ⟨_, exec_cmp r1 r2 s, ?zf, pcNext_advance _, fun _ => rfl, rfl, fun _ => rfl, ⟨rfl, rfl⟩, rfl, rfl⟩⟩
  case zf => rw [State.advance_zf, State.setZfEqual_zf, decide_eq_true_iff]

end Sys2Proof.Machine
end

section
/-!
SUPPORT. PUSH and POP (R121 to R123): the words that decode to them under the default map (R54), SP moved by one as a number, and the address
POP reads under each order. What PUSH followed by POP does is put together from the two statements.
-/
namespace Sys2Proof.Machine

/-! ## Decoding under the default map -/

/-- A row whose instruction takes exactly the field `r1` (R52) gets it back from its word, whatever the eight ignored bits hold. -/
theorem decode_one_field {m : OpcodeMap} {c : Opcode} {k : Nat} {instr : Reg → Instr} (hk : rowOf m c = k)
    (hrow : ∀ w, instrOfRow k w = instr (r1Of w)) (r1 : Reg) (ignored : BitVec 8) :
    decode m (c ++ r1 ++ ignored) = instr r1 := by
  rw [decode_of_row (opcodeOf_r1 ..) hk, hrow, r1Of_fields]

theorem decode_push (r1 : Reg) (ignored : BitVec 8) : decode defaultOpcodeMap (0b10000#5 ++ r1 ++ ignored) = .push r1 :=
  decode_one_field (k := 16) rfl (fun _ => rfl) r1 ignored

theorem decode_pop (r1 : Reg) (ignored : BitVec 8) : decode defaultOpcodeMap (0b10001#5 ++ r1 ++ ignored) = .pop r1 :=
  decode_one_field (k := 17) rfl (fun _ => rfl) r1 ignored

/-! ## SP and the address POP reads -/

/-- R121: SP moved down, as a number; below 0 it wraps to 65535. -/
theorem toNat_sub_one (a : Word) : (a - 1).toNat = (a.toNat + 65535) % 65536 := by
  rw [BitVec.toNat_sub, Nat.add_comm]
  rfl

/-- R122: SP moved up, as a number. -/
theorem toNat_add_one (a : Word) : (a + 1).toNat = (a.toNat + 1) % 65536 :=
  BitVec.toNat_add a 1

theorem State.popAddr_of_readThenIncrement {s : State} (h : s.params.popOrder = .readThenIncrement) :
    s.popAddr = s.sp := by
  rw [State.popAddr, h]

theorem State.popAddr_of_incrementThenRead {s : State} (h : s.params.popOrder = .incrementThenRead) :
    s.popAddr = s.sp + 1 := by
  rw [State.popAddr, h]

/-! ## The statements -/

/-- Settles O28: PUSH is one memory write at the old SP, then SP moved down and a continuing step. -/
theorem pushStoresThenMovesDown : Obligations.PushStoresThenMovesDown :=
  fun r1 ignored => ⟨decode_push r1 ignored, fun s =>
    ⟨_, exec_push r1 s, State.memRead_memWrite_same s s.sp _, sameMemBut_memWrite s s.sp _, toNat_sub_one s.sp,
      pcNext_advance _, fun _ => rfl, rfl, ⟨rfl, rfl⟩, rfl, rfl⟩⟩

/-- Settles O29: POP is one register write by the word at the address of its order, then SP moved up and a continuing step. -/
theorem popReadsThenMovesUp : Obligations.PopReadsThenMovesUp := by
  refine fun r1 ignored => ⟨decode_pop r1 ignored, fun s =>
    ⟨_, exec_pop r1 s, fun horder => ?atOldSp, fun horder => ?atNewSp, toNat_add_one s.sp, pcNext_advance _,
      fun _ => State.reg_setReg_other s _, rfl, fun _ => rfl, ⟨rfl, rfl⟩, rfl, rfl⟩⟩
  case atOldSp => rw [State.reg_advance, State.reg_setSp, State.reg_setReg_same, State.popAddr_of_readThenIncrement horder]
  case atNewSp =>
    rw [State.reg_advance, State.reg_setSp, State.reg_setReg_same, State.popAddr_of_incrementThenRead horder,
      State.advance_sp, State.setSp_sp]

/-- Settles O30: POP starts at the SP that PUSH left. There it reads the word below, which PUSH did not write; one further up, where SP is
back, it reads the word PUSH stored. -/
theorem pushThenPop : Obligations.PushThenPop := by
  intro rA rB s
  obtain ⟨t, hpush, hstored, hframe, hdown, -, -, -, -, -, hparams⟩ := (pushStoresThenMovesDown rA 0).2 s
  obtain ⟨u, hpop, hatOld, hatNew, hup, -, -, -, hmem, -⟩ := (popReadsThenMovesUp rB 0).2 t
  have hbelow : t.sp = s.sp - 1 := BitVec.eq_of_toNat_eq (hdown.trans (toNat_sub_one s.sp).symm)
  have hback : u.sp = s.sp := by
    apply BitVec.eq_of_toNat_eq
    rw [hup, hdown]
    have := s.sp.isLt
    omega
  refine ⟨t, u, hpush, hpop, hback, fun horder => ?below, fun horder => ?pushed, (hmem s.sp).trans hstored⟩
  case below =>
    rw [hatOld (hparams ▸ horder), hbelow]
    exact hframe _ (mt sub_eq_self.mp (by decide))
  case pushed => rw [hatNew (hparams ▸ horder), hback, hstored]

end Sys2Proof.Machine
end

section
/-!
SUPPORT. The system and reserved opcodes (R130 to R135): the words that decode to them under the default map, where a word's opcode is the number
of its row (R54), and what each row does to the trace: a mnemonic's leaves it, an unassigned opcode's reports the word (R57, R135).
-/
namespace Sys2Proof.Machine

/-! ## Decoding under the default map -/

/-- The default map lists the opcodes in ascending order, so every opcode stands in the row of its own number (R54, R56). -/
theorem rowOf_defaultOpcodeMap : ∀ c : Opcode, rowOf defaultOpcodeMap c = c.toNat := by decide

theorem decode_default (w : Word) : decode defaultOpcodeMap w = instrOfRow (opcodeOf w).toNat w :=
  decode_of_row rfl (rowOf_defaultOpcodeMap _)

/-- The row of a word that is an opcode and eleven further bits is the opcode's. -/
theorem decode_default_append (c : Opcode) (ignored : BitVec 11) :
    decode defaultOpcodeMap (c ++ ignored) = instrOfRow c.toNat (c ++ ignored) := by
  rw [decode_default, opcodeOf_fields]

theorem decode_hlt (ignored : BitVec 11) : decode defaultOpcodeMap (0b00000#5 ++ ignored) = .hlt :=
  decode_default_append ..

theorem decode_call (ignored : BitVec 11) : decode defaultOpcodeMap (0b10011#5 ++ ignored) = .call :=
  decode_default_append ..

theorem decode_ret (ignored : BitVec 11) : decode defaultOpcodeMap (0b10100#5 ++ ignored) = .ret :=
  decode_default_append ..

theorem decode_nop (ignored : BitVec 11) : decode defaultOpcodeMap (0b10101#5 ++ ignored) = .nop :=
  decode_default_append ..

/-! ## The ten unassigned opcodes -/

/-- The instructions that carry the word `w` whole: those of the rows 22 to 31 (R135). It evaluates to the list that O33 writes out. -/
def unassignedInstrs (w : Word) : List Instr := (List.range' 22 10).map (instrOfRow · w)

theorem mem_unassignedInstrs {i : Instr} {w : Word} :
    i ∈ unassignedInstrs w ↔ ∃ k, (22 ≤ k ∧ k < 32) ∧ instrOfRow k w = i := by
  simp only [unassignedInstrs, List.mem_map, List.mem_range'_1]

/-- 0xB000 is opcode 22 with eleven 0 bits, so the words from there up have the opcodes 22 to 31. -/
theorem decode_mem_unassignedInstrs {w : Word} (hw : 0xB000 ≤ w.toNat) :
    decode defaultOpcodeMap w ∈ unassignedInstrs w := by
  have hrow : 22 ≤ (opcodeOf w).toNat := by
    rw [opcodeOf_toNat]
    omega
  exact mem_unassignedInstrs.mpr ⟨_, ⟨hrow, (opcodeOf w).isLt⟩, (decode_default w).symm⟩

theorem exec_of_mem_unassignedInstrs {i : Instr} {w : Word} (hi : i ∈ unassignedInstrs w) (s : State) :
    exec i s = .next (s.emit (.unrecognizedOpcode s.pc w)).advance := by
  obtain ⟨k, ⟨h22, hk⟩, rfl⟩ := mem_unassignedInstrs.mp hi
  rw [exec_instrOfRow_unassigned w s h22 hk, unrecognized_eq]

/-- An instruction of a row from 22 up is one of the ten, with the word it encodes to under any map. -/
theorem mem_unassignedInstrs_of_row (m : OpcodeMap) {i : Instr} (h22 : 22 ≤ rowOfInstr i) :
    i ∈ unassignedInstrs (encode m i) :=
  mem_unassignedInstrs.mpr ⟨_, ⟨h22, rowOfInstr_lt i⟩, instrOfRow_encode m i⟩

/-! ## The trace -/

/-- R57, R131 to R133: of the shapes of a next state only the unassigned opcodes' appends to the trace. -/
theorem exec_keeps_trace {i : Instr} {s t : State} (h : exec i s = .next t) (hi : rowOfInstr i < 22) :
    t.trace = s.trace := by
  cases exec_next h with
  | emit w h22 => exact absurd hi (Nat.not_lt.mpr h22)
  | _ => rfl

/-- R135: an instruction of a row from 22 up appends one event, with the PC. -/
theorem exec_appends_event {i : Instr} {s t : State} (h : exec i s = .next t) (h22 : 22 ≤ rowOfInstr i) :
    ∃ w, t.trace = s.trace ++ [.unrecognizedOpcode s.pc w] := by
  rw [exec_of_mem_unassignedInstrs (mem_unassignedInstrs_of_row defaultOpcodeMap h22)] at h
  cases h
  exact ⟨_, rfl⟩

/-! ## The statements -/

/-- Settles O49: the parameters and the mnemonics' trace by the shapes of a next state, the event by the one next state of the ten. -/
theorem onlyUnassignedEmit : Obligations.OnlyUnassignedEmit :=
  fun _ _ _ h => ⟨exec_keeps_params h, exec_keeps_trace h, exec_appends_event h⟩

/-- Settles O31: HLT's one next state is the halted one. -/
theorem hltStopsInPlace : Obligations.HltStopsInPlace :=
  fun ignored => ⟨decode_hlt ignored, fun s =>
    ⟨_, exec_hlt s, s.halt_halted, s.halt_fault, s.halt_pc, s.reg_halt, s.halt_sp, s.halt_zf, s.memRead_halt,
      s.halt_trace, s.halt_params⟩⟩

/-- Settles O32: each of the three is a continuing step with no other effect. -/
theorem nopCallRetOnlyAdvance : Obligations.NopCallRetOnlyAdvance := by
  refine fun ignored => ⟨decode_nop ignored, decode_call ignored, decode_ret ignored, fun i s hi => ?_⟩
  have hexec : exec i s = .next s.advance := by
    simp only [List.mem_cons, List.not_mem_nil, or_false] at hi
    obtain rfl | rfl | rfl := hi
    · exact exec_nop s
    · exact exec_call s
    · exact exec_ret s
  exact ⟨_, hexec, pcNext_advance s, writesOnlyPc_advance s⟩

/-- Settles O33: the words from 0xB000 up have an opcode of the rows 22 to 31, and each of the ten is one event and a continuing step. -/
theorem unassignedEmitsAndAdvances : Obligations.UnassignedEmitsAndAdvances :=
  fun _ => ⟨decode_mem_unassignedInstrs, fun _ s hi =>
    ⟨_, exec_of_mem_unassignedInstrs hi s, State.emit_trace s _, pcNext_advance _, fun _ => rfl, rfl, rfl, fun _ => rfl,
      ⟨rfl, rfl⟩, rfl⟩⟩

end Sys2Proof.Machine
end

section
/-!
SUPPORT. The image load into the memory of a reset (R176, R184): which images load, and what memory then reads.
-/
namespace Sys2Proof.Machine

/-- An image that loads has 1 to 65536 words, and memory alone changes, by a write of each word from address 0 up (R184). -/
theorem State.loadImage_eq_ok_iff (s t : State) (image : List Word) : s.loadImage image = .ok t ↔
    (1 ≤ image.length ∧ image.length ≤ 65536) ∧ t = { s with mem := s.mem.writeList 0 image } := by
  unfold State.loadImage
  cases image with
  | nil => simp
  | cons w ws => by_cases hlen : ws.length + 1 ≤ 65536 <;> simp [imageWellFormed, hlen, eq_comm]

theorem State.loadImage_nil (s : State) : s.loadImage [] = .error .emptyImage := rfl

theorem State.loadImage_of_too_long {s : State} {image : List Word} (h : 65536 < image.length) :
    s.loadImage image = .error .imageTooLong := by
  cases image with
  | nil => simp at h
  | cons w ws =>
    have hlen : ¬ws.length + 1 ≤ 65536 := Nat.not_le.mpr h
    simp [State.loadImage, imageWellFormed, hlen]

/-- In an empty memory an image written from address 0 up reads back word for word. -/
theorem Memory.read_image (image : List Word) (a : Nat) (h : a < image.length) :
    Memory.read (Memory.writeList [] 0 image) a = image[a] := by
  rw [Memory.read_writeList, if_pos ⟨Nat.zero_le a, by omega⟩, Nat.sub_zero, List.getD_eq_getElem _ _ h]

theorem Memory.read_above_image (image : List Word) (a : Nat) (h : image.length ≤ a) :
    Memory.read (Memory.writeList [] 0 image) a = 0 := by
  rw [Memory.read_writeList, if_neg (by omega), Memory.read_nil]

/-- Settles O58: a load of an image that fits writes it into an empty memory, and the two refusals are by its length. -/
theorem imageLoadRoundTrip : Obligations.ImageLoadRoundTrip := by
  refine fun gpr p image => ⟨fun hmin hmax => ?_, ?_, State.loadImage_of_too_long⟩
  · exact ⟨_, (State.loadImage_eq_ok_iff ..).mpr ⟨⟨hmin, hmax⟩, rfl⟩, Memory.read_image image, Memory.read_above_image image,
      rfl, Memory.wf_writeList rfl (by omega)⟩
  · rintro rfl
    exact State.loadImage_nil _

end Sys2Proof.Machine
end

section
/-!
SUPPORT. Fault entry (R160 to R168): the two ways an instruction latches a record, that each is fault entry and nothing else, and what a
session does with the record.
-/
namespace Sys2Proof.Machine

/-! ## What latches a record (R160) -/

/-- Instruction `i` in state `s` raises a cause with its info: DIV with a zero divisor (R162), or a pair formed above 0xFFFF (R163). -/
inductive Raises (i : Instr) (s : State) : FaultCause → Option PairValue → Prop where
  | div (r1 r2 : Reg) (hi : i = .div r1 r2) (hz : s.reg r2 = 0) : Raises i s .divideByZero none
  | pair (h l : Reg) (hp : formedPair s i = some (h, l)) (hv : 0xFFFF < (s.pairAddr h l).toNat) :
      Raises i s .addressError (some (s.pairAddr h l))

/-- An instruction that raises a cause answers the fault's state. -/
theorem exec_of_raises {i : Instr} {s : State} {c : FaultCause} {v : Option PairValue} (h : Raises i s c v) :
    exec i s = .next (s.raise c v) := by
  cases h with
  | div r1 r2 hi hz => rw [hi, exec_div, if_pos hz]
  | pair hi lo hp hv => exact exec_of_formedPair_over hp hv

/-- A record that is new in FAULT was raised: no other shape of a next state writes FAULT. -/
theorem raises_of_exec {i : Instr} {s t : State} {r : FaultRecord} (hs : s.fault = none) (h : exec i s = .next t)
    (hr : t.fault = some r) : Raises i s r.cause r.info ∧ t = s.raise r.cause r.info := by
  cases exec_next h with
  | divFault r1 r2 hi hz =>
    cases hr
    exact ⟨.div r1 r2 hi hz, rfl⟩
  | pairFault hi lo hp hv =>
    cases hr
    exact ⟨.pair hi lo hp hv, rfl⟩
  | _ => cases hs.symm.trans hr

/-- FAULT comes to hold exactly the record of what the instruction raises, at the PC of the instruction (R161). -/
theorem exec_fault_eq_some_iff {i : Instr} {s t : State} (hs : s.fault = none) (h : exec i s = .next t) (r : FaultRecord) :
    t.fault = some r ↔ Raises i s r.cause r.info ∧ r.address = s.pc := by
  obtain ⟨cause, address, info⟩ := r
  constructor
  · intro hr
    obtain ⟨hraises, rfl⟩ := raises_of_exec hs h hr
    cases hr
    exact ⟨hraises, rfl⟩
  · rintro ⟨hraises, haddress⟩
    cases h.symm.trans (exec_of_raises hraises)
    rw [State.raise_fault, ← haddress]

/-- Settles O42: an instruction completes, and its record is one of the two raised. -/
theorem faultExactlyWhen : Obligations.FaultExactlyWhen := by
  intro i s hs
  obtain ⟨t, ht⟩ := exec_completes i s
  refine ⟨t, ht, fun ⟨cause, address, info⟩ => (exec_fault_eq_some_iff hs ht _).trans ⟨?_, ?_⟩⟩
  · rintro ⟨hraises, rfl⟩
    cases hraises with
    | div r1 r2 hi hz => exact .inl ⟨r1, r2, hi, hz, rfl⟩
    | pair h l hp hv => exact .inr ⟨h, l, hp, hv, rfl⟩
  · rintro (⟨r1, r2, hi, hz, ⟨⟩⟩ | ⟨h, l, hp, hv, ⟨⟩⟩)
    · exact ⟨.div r1 r2 hi hz, rfl⟩
    · exact ⟨.pair h l hp hv, rfl⟩

/-! ## What the record changes (R161, R168) -/

theorem State.status_of_fault {s : State} {r : FaultRecord} (h : s.fault = some r) : s.status = .faulted r := by
  rw [State.status, h]

/-- Settles O41: the next state is the fault's, which differs in FAULT alone, and a CORE with a record stops. -/
theorem faultEntryIsPrecise : Obligations.FaultEntryIsPrecise := by
  intro i s t ⟨cause, address, info⟩ hs h hr
  have hstatus := State.status_of_fault hr
  have hstop : step t = .fault .coreFaulted := step_of_faulted (by simp [hr])
  obtain ⟨-, rfl⟩ := raises_of_exec hs h hr
  cases hr
  exact ⟨rfl, rfl, rfl, hstatus, hstop⟩

/-- A CORE with a record has no move (R75). -/
theorem Session.coreStep_of_faulted {s : Session} (h : s.core.fault ≠ none) : s.coreStep = none := by
  refine Option.eq_none_iff_forall_ne_some.mpr fun s' hs => ?_
  obtain ⟨-, t, ht, -⟩ := Session.coreStep_some hs
  cases ht.symm.trans (step_of_faulted h)

/-- Of the host's moves only a reset writes FAULT (R168, R180). -/
theorem HostMove.keeps_fault {unpack : PixelUnpack} {e : HostEvent} {s s' : Session} (h : HostMove unpack s e s')
    (he : ∀ gpr, e ≠ .reset gpr) : s'.core.fault = s.core.fault := by
  cases h with
  | reset gpr hidle => exact absurd rfl (he gpr)
  | imageLoad image t hphase hload =>
    obtain ⟨-, rfl⟩ := (State.loadImage_eq_ok_iff ..).mp hload
    rfl
  | startPass hstart => exact State.startPass_fault s.core
  | renderPass hphase => rfl
  | setPixelData address value hidle => exact State.setPixelData_fault s.core address value
  | quit => rfl

/-- Settles O43: a faulted CORE has no step, and of the host's moves only a reset writes FAULT. -/
theorem faultIsStickyUntilReset : Obligations.FaultIsStickyUntilReset := by
  refine fun unpack s s' r hr => ⟨Session.coreStep_of_faulted (by simp [hr]), fun e he hs => ?_, fun gpr hs => ?_⟩
  · exact ((Session.host_some hs).keeps_fault he).trans hr
  · cases Session.host_some hs with
    | reset gpr hidle => exact State.resetWith_fault gpr s.core.params

end Sys2Proof.Machine
end

section
/-!
SUPPORT. The render pass (R142 to R147): the pixels it emits, how many they are, which words it reads, and the pixel of one window word.
-/
namespace Sys2Proof.Machine

/-! ## What a render pass emits (R142, R143) -/

theorem mem_renderPass_iff (unpack : PixelUnpack) (s : State) (p : Pixel) : p ∈ renderPass unpack s ↔
    ∃ y < screenH, ∃ x < screenW, pixelAt unpack s x y = some p := by
  simp only [renderPass, renderRow, List.mem_flatMap, List.mem_filterMap, List.mem_range]

/-- Settles O51: a pixel is emitted from a position of the canvas, and what a position shows is its window word. -/
theorem renderPassEmits : Obligations.RenderPassEmits := by
  intro unpack s p
  rw [mem_renderPass_iff]
  constructor
  · rintro ⟨y, hy, x, hx, hp⟩
    exact ⟨x, y, hx, hy, (pixelAt_eq_some_iff ..).mp hp⟩
  · rintro ⟨x, y, hx, hy, hp⟩
    exact ⟨y, hy, x, hx, (pixelAt_eq_some_iff ..).mpr hp⟩

/-! ## How many pixels, from which words -/

theorem pixelAt_of_lt (unpack : PixelUnpack) (s : State) {x y : Nat} (h : y * 640 + x < 4093) :
    pixelAt unpack s x y =
      some { x := x, y := y, color := unpack (s.mem.read (0xF000 + (y * 640 + x))), alpha := .fullyOpaque } :=
  (pixelAt_eq_some_iff ..).mpr ⟨h, rfl⟩

theorem pixelAt_of_ge (unpack : PixelUnpack) (s : State) {x y : Nat} (h : ¬y * 640 + x < 4093) :
    pixelAt unpack s x y = none := if_neg h

/-- The first `w` positions of row `y` show the window words left from the row's start on. -/
theorem length_filterMap_pixelAt (unpack : PixelUnpack) (s : State) (y w : Nat) :
    ((List.range w).filterMap fun x => pixelAt unpack s x y).length = min w (4093 - y * 640) := by
  induction w with
  | zero => simp
  | succ w ih =>
    rw [List.range_succ, List.filterMap_append, List.length_append, ih]
    by_cases hw : y * 640 + w < 4093
    · simp only [List.filterMap_cons, pixelAt_of_lt unpack s hw, List.filterMap_nil, List.length_singleton]
      omega
    · simp only [List.filterMap_cons, pixelAt_of_ge unpack s hw, List.filterMap_nil, List.length_nil]
      omega

theorem length_renderRow (unpack : PixelUnpack) (s : State) (y : Nat) :
    (renderRow unpack s y).length = min 640 (4093 - y * 640) :=
  length_filterMap_pixelAt unpack s y 640

/-- The first `h` rows of 640 positions show the window words they have room for. -/
theorem length_flatMap_renderRow (unpack : PixelUnpack) (s : State) (h : Nat) :
    ((List.range h).flatMap fun y => renderRow unpack s y).length = min (h * 640) 4093 := by
  induction h with
  | zero => simp
  | succ h ih =>
    rw [List.range_succ, List.flatMap_append, List.length_append, ih, List.flatMap_singleton, length_renderRow]
    omega

theorem length_renderPass (unpack : PixelUnpack) (s : State) : (renderPass unpack s).length = 4093 :=
  length_flatMap_renderRow unpack s 480

/-- A position shows a word of the window or none, so states that agree on the window show the same there. -/
theorem pixelAt_congr (unpack : PixelUnpack) {s t : State}
    (h : ∀ a, 0xF000 ≤ a → a ≤ 0xFFFC → s.mem.read a = t.mem.read a) (x y : Nat) :
    pixelAt unpack s x y = pixelAt unpack t x y := by
  by_cases hw : y * 640 + x < 4093
  · rw [pixelAt_of_lt unpack s hw, pixelAt_of_lt unpack t hw, h _ (by omega) (by omega)]
  · rw [pixelAt_of_ge unpack s hw, pixelAt_of_ge unpack t hw]

/-- Settles O52: the count row by row, and the same pixel at every position. -/
theorem renderPassReadsWindowOnly : Obligations.RenderPassReadsWindowOnly :=
  fun unpack s _ => ⟨length_renderPass unpack s, fun h => by simp only [renderPass, renderRow, pixelAt_congr unpack h]⟩

/-! ## The pixel of one window word (R145, R147) -/

/-- The window word at offset `k` is shown at position (k mod 640, k div 640). -/
theorem windowWord_mem_renderPass (unpack : PixelUnpack) (s : State) {k : Nat} (hk : k < 4093) :
    { x := k % 640, y := k / 640, color := unpack (s.mem.read (0xF000 + k)), alpha := .fullyOpaque } ∈ renderPass unpack s := by
  have hoffset : k / 640 * 640 + k % 640 = k := Nat.div_add_mod' k 640
  exact (renderPassEmits unpack s _).mpr ⟨k % 640, k / 640, by omega, by omega, by omega, by rw [hoffset]⟩

/-- Settles O54: a pixel write in the window is one memory write, and the window word it wrote is shown. -/
theorem setPixelDataWritesWindowOnly : Obligations.SetPixelDataWritesWindowOnly := by
  refine fun unpack s address v => ⟨fun h => setPixelData_outside s address h v, ?_⟩
  rintro k hk rfl
  rw [setPixelData_eq s k hk v]
  refine ⟨fun a => Memory.read_write s.mem _ a v, rfl, ?_⟩
  have hshown := windowWord_mem_renderPass unpack { s with mem := s.mem.write (0xF000 + k) v } hk
  rwa [Memory.read_write_same] at hshown

/-- Settles O55: the pushed word is the window word at offset 4092 - d, and 4092 = 6 * 640 + 252. -/
theorem pushDrawsOnLastRow : Obligations.PushDrawsOnLastRow := by
  intro unpack r1 s d hd hsp
  refine ⟨_, exec_push r1 s, ?_⟩
  have hshown := windowWord_mem_renderPass unpack ((s.memWrite s.sp (s.reg r1)).setSp (s.sp - 1)).advance (k := 4092 - d) (by omega)
  rwa [State.advance_mem, State.setSp_mem, State.memWrite_mem, show 0xF000 + (4092 - d) = s.sp.toNat by omega,
    Memory.read_write_same, show (4092 - d) % 640 = 252 - d by omega, show (4092 - d) / 640 = 6 by omega] at hshown

/-! ## The default channels (R144) -/

theorem rgb565_red_toNat (w : Word) : (rgb565 w).red.toNat = w.toNat / 2048 := by
  have hred : (rgb565 w).red.toNat = w.toNat / 2048 % 32 := opcodeOf_toNat w
  omega

theorem rgb565_green_toNat (w : Word) : (rgb565 w).green.toNat = w.toNat / 32 % 64 := by
  simp [rgb565, Nat.shiftRight_eq_div_pow]

theorem rgb565_blue_toNat (w : Word) : (rgb565 w).blue.toNat = w.toNat % 32 := by
  simp [rgb565]

/-- Settles O53: each channel by division, where 16 bits leave five for red; the five examples by evaluation. -/
theorem defaultUnpackIsRgb565 : Obligations.DefaultUnpackIsRgb565 :=
  ⟨fun w => ⟨rgb565_red_toNat w, rgb565_green_toNat w, rgb565_blue_toNat w⟩, by decide⟩

end Sys2Proof.Machine
end
